-- ==== Sys2Proof/Word.lean ====
section
/-!
DEFINITION. The word types of the engine (spec/00_scope.md R6, R8, R9): bytes, 32-bit bus words and 64-bit data words, all
unsigned. `+` on `Word64` is `BitVec` addition, that is addition modulo 2^64 (spec/00_scope.md R9, spec/40_datapath.md R102).
-/
namespace Sys2Proof

/-- A byte (`u8`). -/
abbrev Byte := BitVec 8

/-- A bus word (`u32`). -/
abbrev Word32 := BitVec 32

/-- A word of the hash datapath (`u64`). -/
abbrev Word64 := BitVec 64

end Sys2Proof
end

