-- ==== Sys2Proof/Syntax.lean ====
section
/-!
DEFINITION. The instructions of the engine: the four commands of spec/30_encoding.md R82, one constructor per row of
spec/opcode_table.json. A command word carries no operand (R83), so no constructor has an argument.
-/
namespace Sys2Proof

/-- The four commands (spec/30_encoding.md R82). -/
inductive Instr where
  /-- INIT, `init() -> HashState` (spec/41_init.md). -/
  | init
  /-- COMPRESS_BLOCK, `compress_block(state, block)` (spec/42_compress.md). -/
  | compressBlock
  /-- FINALIZE, `finalize(state, tail, total_size)` (spec/43_finalize.md). -/
  | finalize
  /-- GET_DIGEST_SLICE, `get_digest_slice(state, offset, len)` (spec/44_digest.md). -/
  | getDigestSlice
deriving DecidableEq, Repr

end Sys2Proof
end

