-- ==== Sys2Proof/Decode.lean ====
section
/-!
DEFINITION. Decoding and encoding of the 32-bit command word (spec/30_encoding.md R80 to R85). The word arrives whole, as the data
of one bus write (R80); decoding is total on all 2^32 words (R85).
-/
namespace Sys2Proof

/-- Why a command word is illegal (spec/30_encoding.md R84). The engine reports both as ILLEGAL_CMD. -/
inductive IllegalWord where
  /-- A bit of RSVD, bits 31:4, is 1. -/
  | reservedBits
  /-- OPCODE, bits 3:0, is 0x0 or 0x5 to 0xF. -/
  | unassignedOpcode
deriving DecidableEq, Repr

/-- What decoding a command word gives (spec/30_encoding.md R85). -/
inductive Decoded where
  | command (i : Instr)
  | illegal (why : IllegalWord)
deriving DecidableEq, Repr

/-- The field OPCODE, bits 3:0 (spec/30_encoding.md R81). -/
def opcodeField (w : Word32) : BitVec 4 := w.extractLsb' 0 4

/-- The field RSVD, bits 31:4 (spec/30_encoding.md R81). -/
def reservedField (w : Word32) : BitVec 28 := w.extractLsb' 4 28

/-- `Decode(w)` (spec/30_encoding.md R85). -/
def decodeWord (w : Word32) : Decoded :=
  if reservedField w ≠ 0#28 then .illegal .reservedBits
  else if opcodeField w = 0x1#4 then .command .init
  else if opcodeField w = 0x2#4 then .command .compressBlock
  else if opcodeField w = 0x3#4 then .command .finalize
  else if opcodeField w = 0x4#4 then .command .getDigestSlice
  else .illegal .unassignedOpcode

/-- The command a word carries, if it carries one. -/
def Decoded.instr? : Decoded → Option Instr
  | .command i => some i
  | .illegal _ => none

/-- The opcode of a command (spec/30_encoding.md R82). -/
def opcodeOf : Instr → BitVec 4
  | .init => 0x1#4
  | .compressBlock => 0x2#4
  | .finalize => 0x3#4
  | .getDigestSlice => 0x4#4

/-- The command word of a command: RSVD = 0 above its opcode (spec/30_encoding.md R81, R82). -/
def encode (i : Instr) : Word32 := 0#28 ++ opcodeOf i

/-- The 32-bit word whose low `nbits` bits are those of `w` and whose bits above them are 0. -/
def tableWord (nbits w : Nat) : Word32 := BitVec.ofNat 32 (w % 2 ^ nbits)

/-- The command read from a word whose bits are `w`, numbered as spec/opcode_table.json numbers them. A command word has 32 bits
(spec/30_encoding.md R80), so no row is longer. -/
def decodeTableWord (nbits w : Nat) : Option Instr :=
  if nbits ≤ 32 then (decodeWord (tableWord nbits w)).instr? else none

end Sys2Proof
end

