-- ==== Sys2Proof/Config.lean ====
section
/-!
DEFINITION. What is fixed for a machine and does not change as it runs: the window's size (spec/00_scope.md R7; the
sizes of R6 stand as numbers where they are used), and the one OPEN
parameter that a command's meaning reads, `LEN_FIELD_MODE` (spec/43_finalize.md R153). The OPEN parameters `ENGINE_BASE` and
`N_ENGINES` are arguments of the platform layer, Sys2Proof/Machine/Platform.lean.
-/
namespace Sys2Proof

/-- `LEN_FIELD_MODE` (spec/43_finalize.md R153): how FINALIZE encodes `total_size * 8` when it does not fit in 64 bits. -/
inductive LenFieldMode where
  /-- EXACT, the spec's default: the exact product. -/
  | exact
  /-- WRAP64: the product modulo 2^64. -/
  | wrap64
deriving DecidableEq, Repr, Inhabited

namespace Config

/-- The `LEN_FIELD_MODE` this machine was built with. It has no body: the spec leaves the parameter OPEN (spec/92_eei_decisions.md
D13), so nothing can be proved of a total of 2^61 or more that does not hold in both modes. DESIGN CHOICE, safe; log entry 5. One mode
serves every engine of a platform: the spec does not say whether it can differ between them. DESIGN CHOICE, UNSAFE; log entry 21. -/
opaque lenFieldMode : LenFieldMode

/-- WINDOW_BYTES (spec/00_scope.md R7): the size of one engine's register window. -/
abbrev windowBytes : Nat := 256

end Config

end Sys2Proof
end

