-- ==== Sys2Proof/Machine/State.lean ====
section
/-!
DEFINITION. The state of the engine, as plain data (spec/10_state.md), the inputs still to come from outside it, and the reasons a step
can stop.
-/
namespace Sys2Proof.Machine

/-- `H[0..7]`, or any other chaining value: eight 64-bit words (spec/10_state.md R20). -/
structure ChainingValue where
  h0 : Word64
  h1 : Word64
  h2 : Word64
  h3 : Word64
  h4 : Word64
  h5 : Word64
  h6 : Word64
  h7 : Word64
deriving DecidableEq, Repr

/-- `PHASE`, the lifecycle state (spec/10_state.md R22). -/
inductive Phase where
  /-- After reset, before the first INIT. -/
  | uninit
  /-- After INIT, no block compressed. -/
  | fresh
  /-- After at least one COMPRESS_BLOCK. -/
  | accum
  /-- After FINALIZE. `H` holds the digest words. -/
  | final
deriving DecidableEq, Repr

/-- The six usage errors (spec/60_exceptions.md R201). -/
inductive UsageError where
  | illegalCmd
  | notInit
  | notFinal
  | afterFinal
  | range
  | busyWrite
deriving DecidableEq, Repr

/-- A byte buffer: (index, byte) cells, indexes strictly rising, no cell holding 0x00. An unlisted byte reads as 0x00, the value
spec/10_state.md R38 gives every byte of BLOCK and DOUT at reset. The form is `Memory.wf` of Machine/Ops.lean. -/
abbrev Memory := List Host.Cell

/-- The width of a bus access. Only `w32` exists (spec/20_memory.md R51); the others are what a host may attempt. -/
inductive Width where
  | w8
  | w16
  | w32
  | w64
deriving DecidableEq, Repr

/-- One host access to the window at an offset (spec/20_memory.md R52, R53). `v` is the data of a 32-bit write; a write of another
width is refused whatever it carries (R51). -/
inductive Access where
  | read (width : Width) (off : Nat)
  | write (width : Width) (off : Nat) (v : Word32)
deriving DecidableEq, Repr

/-- Whose turn it is: what happens to the engine next (spec/00_scope.md R2; spec/20_memory.md R62; spec/70_reset_and_hazards.md R230,
R234). DESIGN CHOICE, safe; log entry 1. -/
inductive Turn where
  /-- The bus delivers a host access. -/
  | host (a : Access)
  /-- The engine takes its perform step, if it has one. -/
  | engine
  /-- Reset is applied. -/
  | reset
deriving DecidableEq, Repr

/-- Why a step ends in a fault. -/
inductive Fault where
  /-- Raised by a host access of a width other than 32 bits, at a misaligned offset or past 0x0FC (spec/20_memory.md R51): the access
  gets a bus error response and the engine's state is unchanged. "A model makes it a fault of the host's step." Safe: such runs are
  never claimed anything of. Log entry 4. -/
  | busError
  /-- Raised by the engine's step when BUSY = 1 and no command is pending. The spec gives such a state no step; no run reaches it. Safe.
  Log entry 10. -/
  | noPendingCommand
  /-- Raised by performing GET_DIGEST_SLICE with SLICE_OFFSET + SLICE_LEN > 64, which spec/44_digest.md R172 keeps from being accepted:
  the digest has no such byte. No run reaches it. Safe. Log entry 11. -/
  | sliceOutOfRange
deriving DecidableEq, Repr

/-- Why a step is refused: the model has no meaning for the instruction. -/
inductive Refusal where
  /-- Raised by an arm of `exec` for an instruction whose meaning is not written. No arm raises it. Safe. -/
  | notModelled (mnemonic : String)
deriving DecidableEq, Repr

/-- The state: everything spec/10_state.md gives the engine, then the model's own three fields. BUSY stands first because every perform
step writes a constant to it: a check that two records differ then ends there and does not evaluate a compression. -/
structure State where
  /-- `BUSY` (R34). -/
  busy : Bool
  /-- `H[0..7]` (spec/10_state.md R20). No bus address. -/
  h : ChainingValue
  /-- `PHASE` (R22). -/
  phase : Phase
  /-- `BLOCK[0..127]` (R24). -/
  block : Memory
  /-- `TOTAL_SIZE` (R25). -/
  totalSize : Word64
  /-- `SLICE_OFFSET` (R26). -/
  sliceOffset : Word32
  /-- `SLICE_LEN` (R27). -/
  sliceLen : Word32
  /-- `DOUT[0..63]` (R29). -/
  dout : Memory
  /-- `DOUT_LEN` (R30). -/
  doutLen : Word32
  /-- `PENDING` (R34): the accepted command. `none` is the reset value R38 gives. -/
  pending : Option Instr
  /-- `ERR` (R32): the first usage error since the last clear. `none` is code 0, NONE. -/
  err : Option UsageError
  /-- `ERR_MULTI` (R32). -/
  errMulti : Bool
  /-- `ERR_INFO` (R33). -/
  errInfo : Word32
  /-- The model's own: the inputs still to come, in order. DESIGN CHOICE, safe; log entry 1. -/
  turns : List Turn
  /-- The model's own: the words host reads returned, newest first. DESIGN CHOICE, safe; log entry 8. -/
  reads : List Word32
  /-- The model's own: every usage error raised, with its info word, newest first, never cleared
  (spec/93_implementation_defined.md Part 1 recommends it). DESIGN CHOICE, safe; log entry 7. -/
  errLog : List (UsageError × Word32)
deriving DecidableEq, Repr

/-- The chaining value the model gives `H` at reset, where the spec gives none (spec/10_state.md R38: "unspecified", "never
observable"). DESIGN CHOICE, UNSAFE; log entry 3. -/
def resetChainingValue : ChainingValue := ⟨0, 0, 0, 0, 0, 0, 0, 0⟩

/-- The machine right after reset (spec/10_state.md R38), with no input waiting. -/
def State.reset : State where
  busy := false
  h := resetChainingValue
  phase := .uninit
  block := []
  totalSize := 0
  sliceOffset := 0
  sliceLen := 0
  dout := []
  doutLen := 0
  pending := none
  err := none
  errMulti := false
  errInfo := 0
  turns := []
  reads := []
  errLog := []

end Sys2Proof.Machine
end

