-- ==== Sys2Proof/Machine/Ops.lean ====
section
/-!
DEFINITION. The named operations over the byte buffers and the error record. `raiseUsageError` is the engine's ONE way of taking an
exceptional condition (spec/60_exceptions.md R200, R204, R207); there is no return from it (R208), only `clearErrors`.
-/
namespace Sys2Proof.Machine

/-- The byte at index `a` of a buffer; an unlisted byte is 0x00 (spec/10_state.md R38). -/
def Memory.read : Memory → Nat → Byte
  | [], _ => 0
  | (b, x) :: m, a => if b = a then x else Memory.read m a

/-- Store a byte, keeping the canonical form: writing 0x00 removes the cell. -/
def Memory.write : Memory → Nat → Byte → Memory
  | [], a, v => if v = 0 then [] else [(a, v)]
  | (b, x) :: m, a, v =>
    if b < a then (b, x) :: Memory.write m a v
    else if b = a then (if v = 0 then m else (a, v) :: m)
    else (if v = 0 then (b, x) :: m else (a, v) :: (b, x) :: m)

/-- Store consecutive bytes from index `a` on. -/
def Memory.store : Memory → Nat → List Byte → Memory
  | m, _, [] => m
  | m, a, v :: vs => Memory.store (Memory.write m a v) (a + 1) vs

/-- The `n` consecutive bytes from index `a` on. -/
def Memory.load (m : Memory) (a : Nat) : Nat → List Byte
  | 0 => []
  | n + 1 => Memory.read m a :: Memory.load m (a + 1) n

/-- The canonical form with every index at least `lo` and below `hi`: indexes strictly rising, no cell holding 0x00. -/
def Memory.wfFrom (hi : Nat) : Nat → Memory → Bool
  | _, [] => true
  | lo, (a, v) :: m => decide (lo ≤ a) && decide (a < hi) && decide (v ≠ 0) && Memory.wfFrom hi (a + 1) m

/-- The canonical form of a buffer of `size` bytes. -/
def Memory.wf (size : Nat) (m : Memory) : Bool := Memory.wfFrom size 0 m

/-- `raise UsageError(code, info)` (spec/60_exceptions.md R204): the first error is kept, a later one only sets ERR_MULTI. The model's
own `errLog` records every one. -/
def raiseUsageError (code : UsageError) (info : Word32) (s : State) : State :=
  match s.err with
  | none => { s with err := some code, errInfo := info, errLog := (code, info) :: s.errLog }
  | some _ => { s with errMulti := true, errLog := (code, info) :: s.errLog }

/-- Clear the error record (spec/60_exceptions.md R206). -/
def clearErrors (s : State) : State := { s with err := none, errMulti := false, errInfo := 0 }

/-- Accept a command (spec/70_reset_and_hazards.md R233): BUSY is set and the opcode recorded; INIT clears the error record here, not
at its perform step (spec/60_exceptions.md R206). -/
def acceptCommand (i : Instr) (s : State) : State :=
  if i = .init then { clearErrors s with busy := true, pending := some i }
  else { s with busy := true, pending := some i }

/-- Apply reset (spec/70_reset_and_hazards.md R230, R231; spec/10_state.md R38): every piece of the engine's state takes its reset value
and a command in flight is abandoned. What is outside the engine stays: the inputs still to come, the words already returned to
the host, and the model's log. Log entry 16. -/
def resetEngine (s : State) : State :=
  { State.reset with turns := s.turns, reads := s.reads, errLog := s.errLog }

end Sys2Proof.Machine
end

