-- ==== Sys2Proof/Machine/Operands.lean ====
section
/-!
DEFINITION. Byte order and operand assembly: big-endian packing (spec/00_scope.md R10; spec/20_memory.md R54 to R56) and what each command
reads (spec/30_encoding.md R83).
-/
namespace Sys2Proof.Machine

/-- Byte `i` of a byte sequence (spec/00_scope.md R10). -/
def byteAt (bs : List Byte) (i : Nat) : Byte := bs.getD i 0

/-- `be32(b[i..i+3])`: byte `b[i]` is bits 31:24 (spec/00_scope.md R10). -/
def be32 (bs : List Byte) (i : Nat) : Word32 :=
  byteAt bs i ++ byteAt bs (i + 1) ++ byteAt bs (i + 2) ++ byteAt bs (i + 3)

/-- `be64(b[i..i+7])`: byte `b[i]` is bits 63:56 (spec/00_scope.md R10). -/
def be64 (bs : List Byte) (i : Nat) : Word64 :=
  byteAt bs i ++ byteAt bs (i + 1) ++ byteAt bs (i + 2) ++ byteAt bs (i + 3) ++
    byteAt bs (i + 4) ++ byteAt bs (i + 5) ++ byteAt bs (i + 6) ++ byteAt bs (i + 7)

/-- `be32bytes(w)`: four bytes, most significant first (spec/00_scope.md R10). -/
def be32bytes (w : Word32) : List Byte :=
  [w.extractLsb' 24 8, w.extractLsb' 16 8, w.extractLsb' 8 8, w.extractLsb' 0 8]

/-- `be64bytes(w)`: eight bytes, most significant first (spec/00_scope.md R10). -/
def be64bytes (w : Word64) : List Byte :=
  [w.extractLsb' 56 8, w.extractLsb' 48 8, w.extractLsb' 40 8, w.extractLsb' 32 8,
    w.extractLsb' 24 8, w.extractLsb' 16 8, w.extractLsb' 8 8, w.extractLsb' 0 8]

/-- `be128bytes(v)`: sixteen bytes, most significant first (spec/00_scope.md R10). -/
def be128bytes (v : BitVec 128) : List Byte :=
  be64bytes (v.extractLsb' 64 64) ++ be64bytes (v.extractLsb' 0 64)

/-- COMPRESS_BLOCK's operand: the 128 bytes `BLOCK[0..127]` (spec/30_encoding.md R83, spec/42_compress.md R136). -/
def blockOperand (s : State) : List Byte := s.block.load 0 128

/-- FINALIZE's tail length `n = TOTAL_SIZE[6:0]` (spec/43_finalize.md R150). -/
def tailLength (total : Word64) : Nat := (total.extractLsb' 0 7).toNat

/-- FINALIZE's tail `BLOCK[0..n-1]` (spec/43_finalize.md R151). -/
def tailOperand (s : State) : List Byte := s.block.load 0 (tailLength s.totalSize)

/-- The range rule of GET_DIGEST_SLICE, on exact integers (spec/44_digest.md R172; spec/00_scope.md R9). -/
def sliceInRange (s : State) : Bool := s.sliceOffset.toNat + s.sliceLen.toNat ≤ 64

/-- The eight words of a chaining value in order, `H[0]` first. -/
def ChainingValue.words (h : ChainingValue) : List Word64 := [h.h0, h.h1, h.h2, h.h3, h.h4, h.h5, h.h6, h.h7]

end Sys2Proof.Machine
end

