-- ==== Sys2Proof/Machine/Issue.lean ====
section
/-!
DEFINITION. The issue part of every command: the checks made when its word is written to CMD with BUSY = 0, and what acceptance and
rejection do (spec/60_exceptions.md R202; spec/70_reset_and_hazards.md R233).
-/
namespace Sys2Proof.Machine

/-- `CheckCommand` for a word that decodes to `i` (spec/60_exceptions.md R202): the first error that applies, or `none` for ACCEPT. -/
def checkCommand (i : Instr) (s : State) : Option UsageError :=
  if s.phase = .uninit ∧ i ≠ .init then some .notInit
  else if s.phase = .final ∧ (i = .compressBlock ∨ i = .finalize) then some .afterFinal
  else if (s.phase = .fresh ∨ s.phase = .accum) ∧ i = .getDigestSlice then some .notFinal
  else if i = .getDigestSlice ∧ sliceInRange s = false then some .range
  else none

/-- `IssueCommand(w)` for the word `w` of command `i` (spec/70_reset_and_hazards.md R233): rejected with the error the check gives, or
accepted. A command's word is the one its encoding gives, since decoding accepts no other. -/
def issueCommand (i : Instr) (s : State) : State :=
  match checkCommand i s with
  | some e => raiseUsageError e (encode i) s
  | none => acceptCommand i s

end Sys2Proof.Machine
end

