-- ==== Sys2Proof/Machine/Datapath.lean ====
section
/-!
DEFINITION. The functions and constant tables of the SHA-512 datapath (spec/40_datapath.md). The spec supplies them from the standard and
records that it checked them against an independent SHA-512. TESTED; log entry 20.
-/
namespace Sys2Proof.Machine

/-- `ROTR(x, n)` (spec/40_datapath.md R100). -/
def rotr (x : Word64) (n : Nat) : Word64 := (x >>> n) ||| (x <<< (64 - n))

/-- `SHR(x, n)` (spec/40_datapath.md R101). -/
def shr (x : Word64) (n : Nat) : Word64 := x >>> n

/-- The function Σ0 (spec/40_datapath.md R103). -/
def bigSigma0 (x : Word64) : Word64 := rotr x 28 ^^^ rotr x 34 ^^^ rotr x 39

/-- The function Σ1 (spec/40_datapath.md R104). -/
def bigSigma1 (x : Word64) : Word64 := rotr x 14 ^^^ rotr x 18 ^^^ rotr x 41

/-- The function σ0 (spec/40_datapath.md R105). -/
def smallSigma0 (x : Word64) : Word64 := rotr x 1 ^^^ rotr x 8 ^^^ shr x 7

/-- The function σ1 (spec/40_datapath.md R106). -/
def smallSigma1 (x : Word64) : Word64 := rotr x 19 ^^^ rotr x 61 ^^^ shr x 6

/-- `Ch(x, y, z)` (spec/40_datapath.md R107). -/
def ch (x y z : Word64) : Word64 := (x &&& y) ^^^ (~~~x &&& z)

/-- `Maj(x, y, z)` (spec/40_datapath.md R108). -/
def maj (x y z : Word64) : Word64 := (x &&& y) ^^^ (x &&& z) ^^^ (y &&& z)

/-- `IV[0..7]`, the initial hash values (spec/40_datapath.md R109). -/
def iv : ChainingValue where
  h0 := 0x6a09e667f3bcc908
  h1 := 0xbb67ae8584caa73b
  h2 := 0x3c6ef372fe94f82b
  h3 := 0xa54ff53a5f1d36f1
  h4 := 0x510e527fade682d1
  h5 := 0x9b05688c2b3e6c1f
  h6 := 0x1f83d9abfb41bd6b
  h7 := 0x5be0cd19137e2179

/-- One row of the spec's table of round constants: `K[i]` to `K[i+3]`, in front of the rows after it (spec/40_datapath.md R110). -/
def constantRow (k0 k1 k2 k3 : Word64) (rows : List Word64) : List Word64 := k0 :: k1 :: k2 :: k3 :: rows

/-- `K[40..79]` (spec/40_datapath.md R110). -/
def roundConstantsUpper : List Word64 :=
  constantRow 0xa2bfe8a14cf10364 0xa81a664bbc423001 0xc24b8b70d0f89791 0xc76c51a30654be30 <|
  constantRow 0xd192e819d6ef5218 0xd69906245565a910 0xf40e35855771202a 0x106aa07032bbd1b8 <|
  constantRow 0x19a4c116b8d2d0c8 0x1e376c085141ab53 0x2748774cdf8eeb99 0x34b0bcb5e19b48a8 <|
  constantRow 0x391c0cb3c5c95a63 0x4ed8aa4ae3418acb 0x5b9cca4f7763e373 0x682e6ff3d6b2b8a3 <|
  constantRow 0x748f82ee5defb2fc 0x78a5636f43172f60 0x84c87814a1f0ab72 0x8cc702081a6439ec <|
  constantRow 0x90befffa23631e28 0xa4506cebde82bde9 0xbef9a3f7b2c67915 0xc67178f2e372532b <|
  constantRow 0xca273eceea26619c 0xd186b8c721c0c207 0xeada7dd6cde0eb1e 0xf57d4f7fee6ed178 <|
  constantRow 0x06f067aa72176fba 0x0a637dc5a2c898a6 0x113f9804bef90dae 0x1b710b35131c471b <|
  constantRow 0x28db77f523047d84 0x32caab7b40c72493 0x3c9ebe0a15c9bebc 0x431d67c49c100d4c <|
  constantRow 0x4cc5d4becb3e42b6 0x597f299cfc657e2a 0x5fcb6fab3ad6faec 0x6c44198c4a475817 <|
  []

/-- `K[0..79]`, the round constants (spec/40_datapath.md R110). -/
def roundConstants : List Word64 :=
  constantRow 0x428a2f98d728ae22 0x7137449123ef65cd 0xb5c0fbcfec4d3b2f 0xe9b5dba58189dbbc <|
  constantRow 0x3956c25bf348b538 0x59f111f1b605d019 0x923f82a4af194f9b 0xab1c5ed5da6d8118 <|
  constantRow 0xd807aa98a3030242 0x12835b0145706fbe 0x243185be4ee4b28c 0x550c7dc3d5ffb4e2 <|
  constantRow 0x72be5d74f27b896f 0x80deb1fe3b1696b1 0x9bdc06a725c71235 0xc19bf174cf692694 <|
  constantRow 0xe49b69c19ef14ad2 0xefbe4786384f25e3 0x0fc19dc68b8cd5b5 0x240ca1cc77ac9c65 <|
  constantRow 0x2de92c6f592b0275 0x4a7484aa6ea6e483 0x5cb0a9dcbd41fbd4 0x76f988da831153b5 <|
  constantRow 0x983e5152ee66dfab 0xa831c66d2db43210 0xb00327c898fb213f 0xbf597fc7beef0ee4 <|
  constantRow 0xc6e00bf33da88fc2 0xd5a79147930aa725 0x06ca6351e003826f 0x142929670a0e6e70 <|
  constantRow 0x27b70a8546d22ffc 0x2e1b21385c26c926 0x4d2c6dfc5ac42aed 0x53380d139d95b3df <|
  constantRow 0x650a73548baf63de 0x766a0abb3c77b2a8 0x81c2c92e47edaee6 0x92722c851482353b <|
  roundConstantsUpper

end Sys2Proof.Machine
end

