-- ==== Sys2Proof/Machine/Schedule.lean ====
section
/-!
DEFINITION. The compression function: message schedule, rounds and feed-forward (spec/42_compress.md R130 to R135). Pure functions of a
chaining value and a 128-byte block; COMPRESS_BLOCK and FINALIZE both use them. The working variables and the schedule are not
state (spec/10_state.md R35; log entry 18).
-/
namespace Sys2Proof.Machine

/-- The working variables `a..h` of one compression (spec/42_compress.md R132). -/
structure Working where
  a : Word64
  b : Word64
  c : Word64
  d : Word64
  e : Word64
  f : Word64
  g : Word64
  h : Word64
deriving DecidableEq, Repr

/-- `W[0..15]`, loaded big-endian from a block (spec/42_compress.md R130). -/
def messageWords (blk : List Byte) : List Word64 := (List.range 16).map fun j => be64 blk (8 * j)

/-- `W[t]` from the words before it, newest first: `W[t-2]` is entry 1, `W[t-7]` entry 6, `W[t-15]` entry 14 and `W[t-16]` entry 15
(spec/42_compress.md R131). -/
def nextScheduleWord (newestFirst : List Word64) : Word64 :=
  smallSigma1 (newestFirst.getD 1 0) + newestFirst.getD 6 0 + smallSigma0 (newestFirst.getD 14 0) + newestFirst.getD 15 0

/-- Derive `n` further schedule words, newest first (spec/42_compress.md R131). -/
def extendSchedule : Nat → List Word64 → List Word64
  | 0, ws => ws
  | n + 1, ws => extendSchedule n (nextScheduleWord ws :: ws)

/-- `W[0..79]`: 16 words loaded, 64 derived (spec/42_compress.md R130, R131). -/
def schedule (blk : List Byte) : List Word64 := (extendSchedule 64 (messageWords blk).reverse).reverse

/-- `T1` of a round (spec/42_compress.md R133). -/
def roundT1 (k w : Word64) (v : Working) : Word64 := v.h + bigSigma1 v.e + ch v.e v.f v.g + k + w

/-- `T2` of a round (spec/42_compress.md R133). -/
def roundT2 (v : Working) : Word64 := bigSigma0 v.a + maj v.a v.b v.c

/-- One round with constant `k` and schedule word `w`: one simultaneous update (spec/42_compress.md R133). -/
def compressRound (k w : Word64) (v : Working) : Working where
  a := roundT1 k w v + roundT2 v
  b := v.a
  c := v.b
  d := v.c
  e := v.d + roundT1 k w v
  f := v.e
  g := v.f
  h := v.g

/-- The rounds, one per pair of a constant and a schedule word, in increasing order (spec/42_compress.md R133). -/
def compressRounds : List Word64 → List Word64 → Working → Working
  | k :: ks, w :: ws, v => compressRounds ks ws (compressRound k w v)
  | _, _, v => v

/-- The working variables before round 0 (spec/42_compress.md R132). -/
def initialWorking (h : ChainingValue) : Working := ⟨h.h0, h.h1, h.h2, h.h3, h.h4, h.h5, h.h6, h.h7⟩

/-- The feed-forward (spec/42_compress.md R135). -/
def feedForward (h : ChainingValue) (v : Working) : ChainingValue where
  h0 := h.h0 + v.a
  h1 := h.h1 + v.b
  h2 := h.h2 + v.c
  h3 := h.h3 + v.d
  h4 := h.h4 + v.e
  h5 := h.h5 + v.f
  h6 := h.h6 + v.g
  h7 := h.h7 + v.h

/-- `Compress(Hin, blk)` (spec/42_compress.md R134). Irreducible, so that no proof unfolds eighty rounds by accident. -/
@[irreducible] def compress (h : ChainingValue) (blk : List Byte) : ChainingValue :=
  feedForward h (compressRounds roundConstants (schedule blk) (initialWorking h))

end Sys2Proof.Machine
end

