-- ==== Sys2Proof/Machine/Compress.lean ====
section
/-!
DEFINITION. COMPRESS_BLOCK (spec/42_compress.md R136 to R142).
-/
namespace Sys2Proof.Machine

/-- `Perform_COMPRESS_BLOCK()` (spec/42_compress.md R137). -/
def performCompressBlock (s : State) : State :=
  { s with h := compress s.h (blockOperand s), phase := .accum, busy := false }

/-- The meaning of COMPRESS_BLOCK: its perform part when a command is in flight (R137), else its issue part (R138). Log entry 9. -/
def execCompressBlock (s : State) : Host.Outcome State Fault Refusal :=
  if s.busy then .next (performCompressBlock s) else .next (issueCommand .compressBlock s)

end Sys2Proof.Machine
end

