-- ==== Sys2Proof/Machine/Digest.lean ====
section
/-!
DEFINITION. GET_DIGEST_SLICE: the digest serializer and the command itself (spec/44_digest.md).
-/
namespace Sys2Proof.Machine

/-- `Serialize(H)`: the 64 digest bytes, `be64bytes(H[0]) || ... || be64bytes(H[7])` (spec/44_digest.md R170). -/
def serialize (h : ChainingValue) : List Byte := h.words.flatMap be64bytes

/-- The 64 bytes GET_DIGEST_SLICE writes to DOUT: the slice, then zeros (spec/44_digest.md R173). -/
def sliceBytes (h : ChainingValue) (off len : Nat) : List Byte :=
  (List.range 64).map fun k => if k < len then byteAt (serialize h) (off + k) else 0

/-- `Perform_GET_DIGEST_SLICE()` for operands in range (spec/44_digest.md R173). -/
def performGetDigestSlice (s : State) : State :=
  { s with
    dout := s.dout.store 0 (sliceBytes s.h s.sliceOffset.toNat s.sliceLen.toNat), doutLen := s.sliceLen, busy := false }

/-- The meaning of GET_DIGEST_SLICE: its perform part when a command is in flight (R173), else its issue part (R172). A slice that
runs past the 64 digest bytes is never accepted (R172); performing one is a fault. Log entries 9 and 11. -/
def execGetDigestSlice (s : State) : Host.Outcome State Fault Refusal :=
  if s.busy then
    if sliceInRange s then .next (performGetDigestSlice s) else .fault .sliceOutOfRange
  else .next (issueCommand .getDigestSlice s)

end Sys2Proof.Machine
end

