-- ==== Sys2Proof/Machine/Finalize.lean ====
section
/-!
DEFINITION. FINALIZE: the padding of the terminal call and the command itself (spec/43_finalize.md).
-/
namespace Sys2Proof.Machine

/-- The exact bit length: `total_size * 8` as a 128-bit value, below 2^67 (spec/43_finalize.md R153, EXACT). -/
def exactBitLength (total : Word64) : BitVec 128 := total.setWidth 128 * 8

/-- The bit length modulo 2^64 (spec/43_finalize.md R153, WRAP64). -/
def wrappedBitLength (total : Word64) : BitVec 128 := (total * 8).setWidth 128

/-- `LenField(total_size)` in a mode (spec/43_finalize.md R153). The two modes agree below 2^61, so there the mode is not consulted
(R153; `lenField_exact` and `lenField_wrap64` of Laws/Compress.lean say that this is the rule's own case split). Log entry 5. -/
def lenField (mode : LenFieldMode) (total : Word64) : BitVec 128 :=
  if total.toNat < 2 ^ 61 then exactBitLength total
  else match mode with
    | .exact => exactBitLength total
    | .wrap64 => wrappedBitLength total

/-- `PadBlocks(tail, total_size)` (spec/43_finalize.md R154): one block when the 17 bytes fit behind the tail, else two. -/
def padBlocks (mode : LenFieldMode) (tail : List Byte) (total : Word64) : List (List Byte) :=
  if tail.length ≤ 111 then
    [tail ++ [0x80] ++ List.replicate (111 - tail.length) 0 ++ be128bytes (lenField mode total)]
  else
    [tail ++ [0x80] ++ List.replicate (127 - tail.length) 0,
      List.replicate 112 0 ++ be128bytes (lenField mode total)]

/-- The chaining value after compressing blocks in order (spec/43_finalize.md R156). -/
def compressAll (h : ChainingValue) : List (List Byte) → ChainingValue
  | [] => h
  | blk :: blks => compressAll (compress h blk) blks

/-- `Perform_FINALIZE()` (spec/43_finalize.md R156). -/
def performFinalize (s : State) : State :=
  { s with
    h := compressAll s.h (padBlocks Config.lenFieldMode (tailOperand s) s.totalSize), phase := .final, busy := false }

/-- The meaning of FINALIZE: its perform part when a command is in flight (R156), else its issue part (R157). Log entry 9. -/
def execFinalize (s : State) : Host.Outcome State Fault Refusal :=
  if s.busy then .next (performFinalize s) else .next (issueCommand .finalize s)

end Sys2Proof.Machine
end

