-- ==== Sys2Proof/Machine/Init.lean ====
section
/-!
DEFINITION. INIT (spec/41_init.md).
-/
namespace Sys2Proof.Machine

/-- `Perform_INIT()` (spec/41_init.md R121). -/
def performInit (s : State) : State :=
  { s with h := iv, phase := .fresh, dout := s.dout.store 0 (List.replicate 64 0), doutLen := 0, busy := false }

/-- The meaning of INIT: its perform part when a command is in flight (R121), else its issue part (R122). Log entry 9. -/
def execInit (s : State) : Host.Outcome State Fault Refusal :=
  if s.busy then .next (performInit s) else .next (issueCommand .init s)

end Sys2Proof.Machine
end

