-- ==== Sys2Proof/Machine/Dispatch.lean ====
section
/-!
DEFINITION. One arm per command. The part of the command that is due: issue with BUSY = 0, perform with BUSY = 1 (log entry 9).
-/
namespace Sys2Proof.Machine

def exec (i : Instr) (s : State) : Host.Outcome State Fault Refusal :=
  match i with
  | .init => Sys2Proof.Machine.execInit s
  | .compressBlock => Sys2Proof.Machine.execCompressBlock s
  | .finalize => Sys2Proof.Machine.execFinalize s
  | .getDigestSlice => Sys2Proof.Machine.execGetDigestSlice s

end Sys2Proof.Machine
end

