-- ==== Sys2Proof/Machine/Flags.lean ====
section
/-!
DEFINITION. The numeric codes of the status fields and the word `STATUS` shows the host (spec/10_state.md R22, R31, R32;
spec/60_exceptions.md R201). The engine has no condition codes (spec/10_state.md R37).
-/
namespace Sys2Proof.Machine

/-- The 2-bit value of PHASE (spec/10_state.md R22). -/
def phaseCode : Phase → BitVec 2
  | .uninit => 0
  | .fresh => 1
  | .accum => 2
  | .final => 3

/-- The 4-bit code of a usage error (spec/60_exceptions.md R201). -/
def usageErrorCode : UsageError → BitVec 4
  | .illegalCmd => 1
  | .notInit => 2
  | .notFinal => 3
  | .afterFinal => 4
  | .range => 5
  | .busyWrite => 6

/-- The value of ERR: 0 when no error is recorded (spec/60_exceptions.md R201). -/
def errField : Option UsageError → BitVec 4
  | none => 0
  | some e => usageErrorCode e

/-- The word a read of STATUS returns: `zext_32({ERR_MULTI, ERR[3:0], 0b00000, PHASE[1:0], BUSY})` (spec/20_memory.md R52). -/
def statusWord (s : State) : Word32 :=
  (BitVec.ofBool s.errMulti ++ errField s.err ++ 0#5 ++ phaseCode s.phase ++ BitVec.ofBool s.busy).setWidth 32

end Sys2Proof.Machine
end

