-- ==== Sys2Proof/Machine/Bus.lean ====
section
/-!
DEFINITION. The register window: host reads and writes (spec/20_memory.md R50 to R59), the CMD write that issues a command, and the
engine's own step (spec/70_reset_and_hazards.md R233, R234).
-/
namespace Sys2Proof.Machine

/-- The access exists: 32 bits wide, aligned, 0x000 <= off <= 0x0FC (spec/20_memory.md R51). -/
def accessExists (width : Width) (off : Nat) : Bool := width == .w32 && off % 4 == 0 && off ≤ 0x0FC

/-- The word at a window offset (spec/20_memory.md R52), for an access that exists. -/
def windowWord (off : Nat) (s : State) : Word32 :=
  if off ≤ 0x07C then be32 (s.block.load off 4) 0
  else if off = 0x080 then s.totalSize.extractLsb' 32 32
  else if off = 0x084 then s.totalSize.extractLsb' 0 32
  else if off = 0x088 then s.sliceOffset
  else if off = 0x08C then s.sliceLen
  else if off = 0x090 then 0
  else if off = 0x094 then statusWord s
  else if off = 0x098 then s.doutLen
  else if off = 0x09C then s.errInfo
  else if off ≤ 0x0BC then 0
  else be32 (s.dout.load (off - 0x0C0) 4) 0

/-- A write of the word `w` to CMD with BUSY = 0 (spec/70_reset_and_hazards.md R233): an illegal word is a usage error, a legal one runs
the issue part of its command. -/
def writeCommand (w : Word32) (s : State) : Host.Outcome State Fault Refusal :=
  match decodeWord w with
  | .command i => exec i s
  | .illegal _ => .next (raiseUsageError .illegalCmd w s)

/-- `MemWrite(off, 4, v)` for an access that exists (spec/20_memory.md R53): ignored and flagged while BUSY = 1 (R236); a store to a
read/write register; the issue of a command; no effect elsewhere (R58). -/
def windowWrite (off : Nat) (v : Word32) (s : State) : Host.Outcome State Fault Refusal :=
  if s.busy then .next (raiseUsageError .busyWrite (BitVec.ofNat 32 off) s)
  else if off ≤ 0x07C then .next { s with block := s.block.store off (be32bytes v) }
  else if off = 0x080 then .next { s with totalSize := v ++ s.totalSize.extractLsb' 0 32 }
  else if off = 0x084 then .next { s with totalSize := s.totalSize.extractLsb' 32 32 ++ v }
  else if off = 0x088 then .next { s with sliceOffset := v }
  else if off = 0x08C then .next { s with sliceLen := v }
  else if off = 0x090 then writeCommand v s
  else .next s

/-- One host access (spec/20_memory.md R51 to R53). The word a read returns is added to `reads`; nothing else changes (R59). -/
def busAccess (a : Access) (s : State) : Host.Outcome State Fault Refusal :=
  match a with
  | .read width off =>
    if accessExists width off then .next { s with reads := windowWord off s :: s.reads } else .fault .busError
  | .write width off v => if accessExists width off then windowWrite off v s else .fault .busError

/-- `EngineStep()` (spec/70_reset_and_hazards.md R234), enabled iff BUSY = 1: perform the pending command. With BUSY = 0 the engine is
idle and its turn changes nothing (spec/60_exceptions.md R216). Log entries 10 and 15. -/
def engineStep (s : State) : Host.Outcome State Fault Refusal :=
  if s.busy then
    match s.pending with
    | some i => exec i s
    | none => .fault .noPendingCommand
  else .next s

/-- What happens at a turn (spec/20_memory.md R62: each takes effect completely before the next). -/
def takeTurn (t : Turn) (s : State) : Host.Outcome State Fault Refusal :=
  match t with
  | .host a => busAccess a s
  | .engine => engineStep s
  | .reset => .next (resetEngine s)

/-- The state in which the next turn is a host write of the word `w` to CMD, and BUSY = 0 so that the write is taken (log entry 12). -/
def placeCommandWord (w : Word32) (s : State) : State :=
  { s with busy := false, turns := .host (.write .w32 0x090 w) :: s.turns }

end Sys2Proof.Machine
end

