-- ==== Sys2Proof/Machine/Step.lean ====
section
/-!
DEFINITION. One step of the machine: the next turn, taken off the list; with no turn left, the engine's own, so that every accepted command
is performed (spec/70_reset_and_hazards.md R235; log entry 2).
-/
namespace Sys2Proof.Machine

/-- One step. -/
def step (s : State) : Host.Outcome State Fault Refusal :=
  match s.turns with
  | [] => engineStep s
  | t :: rest => takeTurn t { s with turns := rest }

/-- `s` with the command word whose bits are `w` as the data of a host write to CMD that is the very next turn (spec/30_encoding.md R80:
"the command word arrives as the data of one bus write"). Log entry 12. -/
def State.withFetchWord (s : State) (nbits w : Nat) : State := placeCommandWord (tableWord nbits w) s

end Sys2Proof.Machine
end

