-- ==== Sys2Proof/Machine/HostScript.lean ====
section
/-!
DEFINITION. The host-script notation (spec/30_encoding.md R87, R88): the host agent's statements, the pseudo-instructions as the lines they
expand to, and what one statement does. `BNZ` and `ASSERTZ` are the host processor's own and touch no engine state. Names and
labels are numbers. The spec leaves open what a name never set or a label that is on no line does: the host stops. It leaves open
where a label that is on several lines leads: to the first. DESIGN CHOICE, safe; log entry 19.
-/
namespace Sys2Proof.Machine

/-- A statement of a host script (spec/30_encoding.md R87). -/
inductive Stmt where
  /-- `WR off, value`. -/
  | wr (off : Nat) (v : Word32)
  /-- `RD off`, or `RD off -> name`. -/
  | rd (off : Nat) (name : Option Nat)
  /-- `BNZ name, mask, label`. -/
  | bnz (name : Nat) (mask : Word32) (label : Nat)
  /-- `ASSERTZ name, mask`. -/
  | assertz (name : Nat) (mask : Word32)
deriving DecidableEq, Repr

/-- A line of a host script: a statement with or without a label. -/
structure Line where
  label : Option Nat
  stmt : Stmt
deriving DecidableEq, Repr

/-- A line without a label. -/
def plainLine (st : Stmt) : Line := ⟨none, st⟩

/-- The pseudo-instructions INIT, COMPRESS, FINALIZE and GETSLICE: a write of the command's word to CMD (spec/30_encoding.md R88). -/
def scriptCommand (i : Instr) : List Line := [plainLine (.wr 0x090 (encode i))]

/-- `WAIT`, with its fresh label and the name it reads STATUS into (spec/30_encoding.md R88). -/
def scriptWait (label name : Nat) : List Line :=
  [⟨some label, .rd 0x094 (some name)⟩, plainLine (.bnz name 0x00000001 label)]

/-- `CHECK` (spec/30_encoding.md R88): ERR and ERR_MULTI are zero. -/
def scriptCheck (name : Nat) : List Line := [plainLine (.rd 0x094 (some name)), plainLine (.assertz name 0x00001F00)]

/-- `SETSIZE n` (spec/30_encoding.md R88). -/
def scriptSetSize (n : Word64) : List Line :=
  [plainLine (.wr 0x080 (n.extractLsb' 32 32)), plainLine (.wr 0x084 (n.extractLsb' 0 32))]

/-- `SETSLICE o, l` (spec/30_encoding.md R88). -/
def scriptSetSlice (o l : Word32) : List Line := [plainLine (.wr 0x088 o), plainLine (.wr 0x08C l)]

/-- The writes of the first `words` words of a byte sequence to `BLOCK_W`. -/
def scriptLoadWords (words : Nat) (m : List Byte) : List Line :=
  (List.range words).map fun k => plainLine (.wr (4 * k) (be32 m (4 * k)))

/-- `LOADBLOCK m[0..127]` (spec/30_encoding.md R88). -/
def scriptLoadBlock (m : List Byte) : List Line := scriptLoadWords 32 m

/-- `LOADTAIL m[0..n-1]`: ceil(n/4) words, the last filled with zeros (spec/30_encoding.md R88). -/
def scriptLoadTail (m : List Byte) : List Line := scriptLoadWords ((m.length + 3) / 4) m

/-- `READOUT d`: DOUT_W[k] into name `d + k` (spec/30_encoding.md R88). -/
def scriptReadOut (d : Nat) : List Line := (List.range 16).map fun k => plainLine (.rd (0x0C0 + 4 * k) (some (d + k)))

/-- The host agent: its script, the line it is at, the names it has set (newest first), and whether it has stopped with failure. -/
structure HostAgent where
  script : List Line
  line : Nat
  names : List (Nat × Word32)
  failed : Bool
deriving DecidableEq, Repr

/-- The line a label stands on. Where one label stands on several lines, which the spec does not speak of, it is the first of them.
DESIGN CHOICE, safe; log entry 19. -/
def findLabel (label : Nat) (script : List Line) : Option Nat :=
  script.findIdx? fun l => l.label == some label

/-- The value of a name, if an `RD` has set it. -/
def lookupName (name : Nat) : List (Nat × Word32) → Option Word32
  | [] => none
  | (n, v) :: rest => if n = name then some v else lookupName name rest

/-- Set a name. -/
def setName (name : Option Nat) (v : Word32) (names : List (Nat × Word32)) : List (Nat × Word32) :=
  match name with
  | some n => (n, v) :: names
  | none => names

/-- A host agent at its next line. -/
def nextLine (a : HostAgent) : HostAgent := { a with line := a.line + 1 }

/-- A host agent that has stopped with failure. -/
def stopHost (a : HostAgent) : HostAgent := { a with failed := true }

/-- Pair a host agent with the outcome of its access. -/
def agentWith (f : State → HostAgent) : Host.Outcome State Fault Refusal → Host.Outcome (HostAgent × State) Fault Refusal
  | .next s => .next (f s, s)
  | .fault r => .fault r
  | .refused r => .refused r

/-- One statement (spec/30_encoding.md R87). -/
def runStmt (st : Stmt) (a : HostAgent) (s : State) : Host.Outcome (HostAgent × State) Fault Refusal :=
  match st with
  | .wr off v => agentWith (fun _ => nextLine a) (busAccess (.write .w32 off v) s)
  | .rd off name =>
    agentWith (fun _ => nextLine { a with names := setName name (windowWord off s) a.names }) (busAccess (.read .w32 off) s)
  | .bnz name mask label =>
    match lookupName name a.names, findLabel label a.script with
    | some v, some target => .next (if v &&& mask = 0 then nextLine a else { a with line := target }, s)
    | _, _ => .next (stopHost a, s)
  | .assertz name mask =>
    match lookupName name a.names with
    | some v => .next (if v &&& mask = 0 then nextLine a else stopHost a, s)
    | none => .next (stopHost a, s)

/-- One step of the host agent: nothing once it has stopped or run past its last line. -/
def hostStep (a : HostAgent) (s : State) : Host.Outcome (HostAgent × State) Fault Refusal :=
  if a.failed then .next (a, s)
  else match a.script[a.line]? with
    | some l => runStmt l.stmt a s
    | none => .next (a, s)

/-- One step of the two agents: the host's next statement, or the engine's step (spec/00_scope.md R2; spec/20_memory.md R62). -/
def agentsStep (engineMoves : Bool) (a : HostAgent) (s : State) : Host.Outcome (HostAgent × State) Fault Refusal :=
  if engineMoves then agentWith (fun _ => a) (engineStep s) else hostStep a s

/-- A run of the two agents under a schedule: at each entry the engine moves, or the host. -/
def agentsRun : List Bool → HostAgent → State → Host.Outcome (HostAgent × State) Fault Refusal
  | [], a, s => .next (a, s)
  | e :: es, a, s =>
    match agentsStep e a s with
    | .next (a', s') => agentsRun es a' s'
    | .fault r => .fault r
    | .refused r => .refused r

end Sys2Proof.Machine
end

