-- ==== Sys2Proof/Machine/Platform.lean ====
section
/-!
DEFINITION. The platform around the engine: `N_ENGINES` independent engines, each with its own window at its own `ENGINE_BASE`
(spec/00_scope.md R7; spec/20_memory.md R50, R60; spec/60_exceptions.md R214). Both OPEN parameters are arguments: a platform is the list
of its engines with their bases. LEN_FIELD_MODE is one for all of them (log entry 21). The core machine, Machine/Step.lean, is one of them, addressed by window offset. Log entry 6.
-/
namespace Sys2Proof.Machine

/-- One engine and the platform address of offset 0 of its window. -/
structure EngineAt where
  base : Nat
  engine : State
deriving DecidableEq, Repr

/-- A bus access at a platform address. -/
inductive PlatformAccess where
  | read (width : Width) (addr : Nat)
  | write (width : Width) (addr : Nat) (v : Word32)
deriving DecidableEq, Repr

/-- What happens next on the platform: an access on the bus, or the step or reset of engine `k`. -/
inductive PlatformTurn where
  | host (a : PlatformAccess)
  | engine (k : Nat)
  | reset (k : Nat)
deriving DecidableEq, Repr

/-- The address an access is made at. -/
def platformAddress : PlatformAccess → Nat
  | .read _ addr => addr
  | .write _ addr _ => addr

/-- The access an engine with its window at `base` sees. -/
def windowAccess (base : Nat) : PlatformAccess → Access
  | .read width addr => .read width (addr - base)
  | .write width addr v => .write width (addr - base) v

/-- The address lies in the window at `base` (spec/20_memory.md R50). -/
def inWindow (base addr : Nat) : Bool := base ≤ addr && addr < base + Config.windowBytes

/-- Replace the engine of an entry by the outcome of something done to it. -/
def withEngineOutcome (e : EngineAt) : Host.Outcome State Fault Refusal → Host.Outcome EngineAt Fault Refusal
  | .next s => .next { e with engine := s }
  | .fault r => .fault r
  | .refused r => .refused r

/-- Put an outcome's engine in front of a list of engines. -/
def consOutcome (rest : List EngineAt) : Host.Outcome EngineAt Fault Refusal → Host.Outcome (List EngineAt) Fault Refusal
  | .next e => .next (e :: rest)
  | .fault r => .fault r
  | .refused r => .refused r

/-- Put an engine in front of an outcome's list of engines. -/
def outcomeCons (e : EngineAt) :
    Host.Outcome (List EngineAt) Fault Refusal → Host.Outcome (List EngineAt) Fault Refusal
  | .next rest => .next (e :: rest)
  | .fault r => .fault r
  | .refused r => .refused r

/-- Deliver an access to the engine whose window holds its address. An address in no window is no engine's: what decodes it belongs to
the platform (spec/20_memory.md R60), and no engine changes. -/
def deliverAccess (a : PlatformAccess) : List EngineAt → Host.Outcome (List EngineAt) Fault Refusal
  | [] => .next []
  | e :: rest =>
    if inWindow e.base (platformAddress a) then
      consOutcome rest (withEngineOutcome e (busAccess (windowAccess e.base a) e.engine))
    else outcomeCons e (deliverAccess a rest)

/-- Do something to engine `k`. With no such engine nothing changes. -/
def onEngine (f : State → Host.Outcome State Fault Refusal) :
    Nat → List EngineAt → Host.Outcome (List EngineAt) Fault Refusal
  | _, [] => .next []
  | 0, e :: rest => consOutcome rest (withEngineOutcome e (f e.engine))
  | k + 1, e :: rest => outcomeCons e (onEngine f k rest)

/-- One step of a platform. -/
def platformStep (t : PlatformTurn) (p : List EngineAt) : Host.Outcome (List EngineAt) Fault Refusal :=
  match t with
  | .host a => deliverAccess a p
  | .engine k => onEngine engineStep k p
  | .reset k => onEngine (fun s => .next (resetEngine s)) k p

/-- Every base is a multiple of 256 (spec/20_memory.md R50), and no two engines share a window. -/
def platformWellFormed (p : List EngineAt) : Bool :=
  p.all (fun e => e.base % Config.windowBytes == 0) && decide (p.map EngineAt.base).Nodup

end Sys2Proof.Machine
end

