-- ==== Sys2Proof/Safety.lean ====
section
/-!
DEFINITION. The terms in which claims speak of a good state: the invariant of the engine, and a run without usage errors.
-/
namespace Sys2Proof.Machine

/-- DOUT shows nothing but a slice of the digest of the chaining value the engine holds, followed by zeros: its first DOUT_LEN bytes
are the digest bytes from some offset on (spec/44_digest.md R173; spec/10_state.md R20, R29, R30). -/
def DoutShowsSlice (s : State) : Prop :=
  ∃ off : Nat, off + s.doutLen.toNat ≤ 64 ∧
    ∀ k : Nat, k < 64 → s.dout.read k = if k < s.doutLen.toNat then byteAt (serialize s.h) (off + k) else 0

/-- The invariant of the engine. -/
structure EngineInv (s : State) : Prop where
  /-- BLOCK is in canonical form and has 128 bytes (spec/10_state.md R24). -/
  blockWf : s.block.wf 128 = true
  /-- DOUT is in canonical form and has 64 bytes (spec/10_state.md R29). -/
  doutWf : s.dout.wf 64 = true
  /-- DOUT is a slice of the digest, then zeros (spec/44_digest.md R173). -/
  doutSlice : DoutShowsSlice s
  /-- Outside FINAL no digest byte is shown (spec/10_state.md R20). -/
  doutOnlyInFinal : s.phase ≠ .final → s.doutLen = 0
  /-- While BUSY = 1 a command is pending, and the checks that accepted it still hold (spec/70_reset_and_hazards.md R233, R236). -/
  pendingAccepted : s.busy = true → ∃ i, s.pending = some i ∧ checkCommand i s = none
  /-- With no error recorded, ERR_MULTI and ERR_INFO are 0 (spec/60_exceptions.md R204, R206). -/
  noErrorNoDetail : s.err = none → s.errMulti = false ∧ s.errInfo = 0
  /-- A recorded error is in the log (spec/93_implementation_defined.md Part 1). -/
  errorLogged : ∀ e, s.err = some e → (e, s.errInfo) ∈ s.errLog

/-- The next step is the engine's own: it is its turn, or nothing else is left (log entry 2). -/
def engineMovesNext (s : State) : Prop := s.turns = [] ∨ ∃ rest, s.turns = .engine :: rest

/-- The two states differ at most in the chaining value. -/
def SameButChainingValue (s s' : State) : Prop := s' = { s with h := s'.h }

/-- The two states differ at most in the error record, the model's log of errors, and the words reads returned (which may show it). -/
def SameButErrorRecord (s s' : State) : Prop :=
  s' = { s with err := s'.err, errMulti := s'.errMulti, errInfo := s'.errInfo, errLog := s'.errLog, reads := s'.reads }

/-- No usage error was ever raised: the premise spec/93_implementation_defined.md Part 1 gives every correctness claim. -/
def noUsageError (s : State) : Bool := s.errLog.isEmpty

end Sys2Proof.Machine
end

