-- ==== Sys2Proof/WellFormed.lean ====
section
/-!
DEFINITION. Well-formedness. A command has no operand (spec/30_encoding.md R83), so every `Instr` is well formed; what can be
ill formed is the 32-bit command word that carries it (R81, R84): a reserved bit set, or an opcode that names no command.
-/
namespace Sys2Proof

/-- Every command is well formed: there is no operand to check (spec/30_encoding.md R83). -/
def Instr.wellFormed : Instr → Bool
  | .init => true
  | .compressBlock => true
  | .finalize => true
  | .getDigestSlice => true

/-- RSVD, bits 31:4 of the command word, must be 0 (spec/30_encoding.md R81). -/
def reservedBitsClear (w : Word32) : Bool := w.extractLsb' 4 28 == 0#28

/-- OPCODE, bits 3:0 of the command word, must be one of 0x1 to 0x4 (spec/30_encoding.md R82, R84). -/
def opcodeAssigned (w : Word32) : Bool :=
  1 ≤ (w.extractLsb' 0 4).toNat && (w.extractLsb' 0 4).toNat ≤ 4

/-- A legal command word (the negation of the condition of spec/30_encoding.md R84). -/
def commandWordWellFormed (w : Word32) : Bool := reservedBitsClear w && opcodeAssigned w

end Sys2Proof
end

