-- ==== Sys2Proof/Certificates/Slice0/Obligations.lean ====
section
/-!
DEFINITION. The statements for the provers, from the numbered rules of spec/. `exec i s` is the part of command `i` that is due in `s`:
its issue with BUSY = 0, its perform with BUSY = 1 (log entry 9).
-/

open Sys2Proof Sys2Proof.Machine

/-! ## Encoding -/

/-- spec/30_encoding.md R82, R84: the four command words, and illegal words, among them a zero word and a set reserved bit. -/
def Obligations.DecodeSampleWords : Prop :=
  decodeWord 0x00000001 = .command .init ∧ decodeWord 0x00000002 = .command .compressBlock ∧
  decodeWord 0x00000003 = .command .finalize ∧ decodeWord 0x00000004 = .command .getDigestSlice ∧
  decodeWord 0x00000000 = .illegal .unassignedOpcode ∧ decodeWord 0x00000005 = .illegal .unassignedOpcode ∧
  decodeWord 0x0000000F = .illegal .unassignedOpcode ∧ decodeWord 0x00000011 = .illegal .reservedBits ∧
  decodeWord 0x80000001 = .illegal .reservedBits ∧ decodeWord 0xFFFFFFF4 = .illegal .reservedBits

/-- spec/30_encoding.md R85: for every one of the 2^32 words, which command it is, or that it is illegal. -/
def Obligations.DecodeSplitsAllWords : Prop :=
  ∀ w : Word32,
    (∀ i : Instr, decodeWord w = .command i ↔
      w.extractLsb' 4 28 = 0 ∧
        w.extractLsb' 0 4 = match i with
          | .init => 0x1#4
          | .compressBlock => 0x2#4
          | .finalize => 0x3#4
          | .getDigestSlice => 0x4#4) ∧
    ((∃ why, decodeWord w = .illegal why) ↔
      w.extractLsb' 4 28 ≠ 0 ∨ (w.extractLsb' 0 4).toNat = 0 ∨ 5 ≤ (w.extractLsb' 0 4).toNat)

/-- spec/30_encoding.md R81, R82, R85: decoding and encoding agree in both directions, and a word is decoded exactly when it is well formed. -/
def Obligations.DecodeEncodeAgree : Prop :=
  (∀ i : Instr, i.wellFormed = true → decodeWord (encode i) = .command i ∧ decodeTableWord 32 (encode i).toNat = some i) ∧
  (∀ (w : Word32) (i : Instr), decodeWord w = .command i → w = encode i) ∧
  (∀ w : Word32, commandWordWellFormed w = true ↔ ∃ i, decodeWord w = .command i)

/-! ## Steps -/

/-- spec/70_reset_and_hazards.md R233: a write of a command's word to CMD with BUSY = 0 runs that command's issue part: the step is `exec`
after the access is taken off the list of turns. The placed word of the host's probe is such a write. -/
def Obligations.StepRunsIssuedCommand : Prop :=
  ∀ (s : State) (w : Word32) (i : Instr), decodeWord w = .command i →
    (∀ rest, s.turns = .host (.write .w32 0x090 w) :: rest → s.busy = false → step s = exec i { s with turns := rest }) ∧
    step (s.withFetchWord 32 w.toNat) = exec i { s with busy := false }

/-- spec/70_reset_and_hazards.md R234: with BUSY = 1 the engine's step is `exec` of the pending command, at its turn or when no turn is left. -/
def Obligations.StepRunsPendingCommand : Prop :=
  ∀ (s : State) (i : Instr), s.busy = true → s.pending = some i →
    (s.turns = [] → step s = exec i s) ∧
    (∀ rest, s.turns = .engine :: rest → step s = exec i { s with turns := rest })

/-- spec/60_exceptions.md R216: with BUSY = 0 the engine is idle: without a host access or reset nothing changes. -/
def Obligations.IdleEngineKeepsItsState : Prop :=
  ∀ s : State, s.busy = false →
    (s.turns = [] → step s = .next s) ∧ (∀ rest, s.turns = .engine :: rest → step s = .next { s with turns := rest })

/-- spec/30_encoding.md R84: an illegal word written to CMD with BUSY = 0 raises ILLEGAL_CMD with the word itself, and does nothing else. -/
def Obligations.IllegalWordRaisesIllegalCmd : Prop :=
  ∀ (s : State) (w : Word32) (rest : List Turn),
    s.turns = .host (.write .w32 0x090 w) :: rest → s.busy = false →
    (w.extractLsb' 4 28 ≠ 0 ∨ (w.extractLsb' 0 4).toNat = 0 ∨ 5 ≤ (w.extractLsb' 0 4).toNat) →
    step s = .next (raiseUsageError .illegalCmd w { s with turns := rest })

/-! ## Issue -/

/-- spec/41_init.md R122: INIT is accepted in every phase, clears the error record at acceptance, and after its perform step STATUS reads 2. -/
def Obligations.InitIsAcceptedInEveryPhase : Prop :=
  ∀ s : State, s.busy = false →
    ∃ t u, exec .init s = .next t ∧
      t = { s with busy := true, pending := some .init, err := none, errMulti := false, errInfo := 0 } ∧
      exec .init t = .next u ∧ statusWord u = 0x00000002

/-- spec/42_compress.md R138: the issue checks of COMPRESS_BLOCK, one outcome per phase. -/
def Obligations.CompressBlockIssueChecks : Prop :=
  ∀ s : State, s.busy = false →
    exec .compressBlock s = .next (match s.phase with
      | .uninit => raiseUsageError .notInit 0x00000002 s
      | .final => raiseUsageError .afterFinal 0x00000002 s
      | .fresh => { s with busy := true, pending := some .compressBlock }
      | .accum => { s with busy := true, pending := some .compressBlock })

/-- spec/43_finalize.md R157: the issue checks of FINALIZE, one outcome per phase. -/
def Obligations.FinalizeIssueChecks : Prop :=
  ∀ s : State, s.busy = false →
    exec .finalize s = .next (match s.phase with
      | .uninit => raiseUsageError .notInit 0x00000003 s
      | .final => raiseUsageError .afterFinal 0x00000003 s
      | .fresh => { s with busy := true, pending := some .finalize }
      | .accum => { s with busy := true, pending := some .finalize })

/-- spec/44_digest.md R172: the issue checks of GET_DIGEST_SLICE; the sum is exact and never wraps at 32 bits. -/
def Obligations.GetDigestSliceIssueChecks : Prop :=
  ∀ s : State, s.busy = false →
    exec .getDigestSlice s = .next (match s.phase with
      | .uninit => raiseUsageError .notInit 0x00000004 s
      | .fresh => raiseUsageError .notFinal 0x00000004 s
      | .accum => raiseUsageError .notFinal 0x00000004 s
      | .final =>
        if s.sliceOffset.toNat + s.sliceLen.toNat > 64 then raiseUsageError .range 0x00000004 s
        else { s with busy := true, pending := some .getDigestSlice })

/-- spec/60_exceptions.md R204, seen through STATUS and ERR_INFO: the first error is recorded with its code and info word, a later one only
sets ERR_MULTI, and nothing else changes but the model's own log. -/
def Obligations.FirstErrorIsKept : Prop :=
  ∀ (e : UsageError) (w : Word32) (s : State),
    ((statusWord s).extractLsb' 8 4 = 0 →
      (statusWord (raiseUsageError e w s)).extractLsb' 8 4 = usageErrorCode e ∧
        (raiseUsageError e w s).errInfo = w ∧ (raiseUsageError e w s).errMulti = s.errMulti) ∧
    ((statusWord s).extractLsb' 8 4 ≠ 0 →
      (statusWord (raiseUsageError e w s)).extractLsb' 8 4 = (statusWord s).extractLsb' 8 4 ∧
        (raiseUsageError e w s).errInfo = s.errInfo ∧ (statusWord (raiseUsageError e w s)).getLsbD 12 = true) ∧
    SameButErrorRecord s (raiseUsageError e w s) ∧ (raiseUsageError e w s).reads = s.reads

/-- spec/10_state.md R23 and spec/60_exceptions.md R202, R204: which commands are accepted where. A rejected one raises a usage error with its
word: ERR and ERR_INFO show it where no error was recorded, else they stay and ERR_MULTI is set. The model's own log of errors, `errLog`, gets
it in both cases (log entry 7, DESIGN CHOICE). -/
def Obligations.AcceptanceByPhase : Prop :=
  ∀ (i : Instr) (s : State), s.busy = false →
    ∃ t, exec i s = .next t ∧
      (t.busy = true ↔ match i with
        | .init => True
        | .compressBlock => s.phase = .fresh ∨ s.phase = .accum
        | .finalize => s.phase = .fresh ∨ s.phase = .accum
        | .getDigestSlice => s.phase = .final ∧ s.sliceOffset.toNat + s.sliceLen.toNat ≤ 64) ∧
      (t.busy = true → t.pending = some i) ∧
      (t.busy = false → t.pending = s.pending ∧ ∃ e, t.errLog = (e, encode i) :: s.errLog ∧
        (s.err = none → t.err = some e ∧ t.errInfo = encode i ∧ t.errMulti = s.errMulti) ∧
        (∀ d, s.err = some d → t.err = some d ∧ t.errInfo = s.errInfo ∧ t.errMulti = true))

/-- The frame of the issue part of all four commands: every register but BUSY, PENDING and the error record, and every byte of BLOCK and
DOUT, is unchanged; of the model's own fields, the log of errors may grow (log entry 7) (spec/60_exceptions.md R205; spec/70_reset_and_hazards.md R233). -/
def Obligations.IssueFrame : Prop :=
  ∀ (i : Instr) (s t : State), s.busy = false → exec i s = .next t →
    t.h = s.h ∧ t.phase = s.phase ∧ t.totalSize = s.totalSize ∧ t.sliceOffset = s.sliceOffset ∧ t.sliceLen = s.sliceLen ∧
    t.doutLen = s.doutLen ∧ t.turns = s.turns ∧ t.reads = s.reads ∧
    (∀ a, t.block.read a = s.block.read a) ∧ (∀ a, t.dout.read a = s.dout.read a) ∧
    (i ≠ .init → t.busy = true → t.err = s.err ∧ t.errMulti = s.errMulti ∧ t.errInfo = s.errInfo ∧ t.errLog = s.errLog)

/-! ## Perform -/

/-- spec/41_init.md R121: INIT performed. `DOUT` is cleared byte by byte; everything the rule does not name is unchanged. -/
def Obligations.InitPerforms : Prop :=
  ∀ s : State, s.busy = true → s.dout.wf 64 = true →
    ∃ d, exec .init s = .next { s with h := iv, phase := .fresh, dout := d, doutLen := 0, busy := false } ∧
      ∀ a, d.read a = 0

/-- spec/42_compress.md R137: COMPRESS_BLOCK performed on the 128 bytes of BLOCK; everything the rule does not name is unchanged. -/
def Obligations.CompressBlockPerforms : Prop :=
  ∀ s : State, s.busy = true →
    exec .compressBlock s =
      .next { s with h := compress s.h ((List.range 128).map s.block.read), phase := .accum, busy := false }

/-- spec/43_finalize.md R156: FINALIZE performed on the first TOTAL_SIZE mod 128 bytes of BLOCK; everything the rule does not name is
unchanged. `LEN_FIELD_MODE` is the machine's own, whichever it is (log entry 5). -/
def Obligations.FinalizePerforms : Prop :=
  ∀ s : State, s.busy = true →
    exec .finalize s =
      .next { s with
        h := (padBlocks Config.lenFieldMode ((List.range (s.totalSize.toNat % 128)).map s.block.read) s.totalSize).foldl compress s.h,
        phase := .final, busy := false }

/-- spec/44_digest.md R173: GET_DIGEST_SLICE performed, for operands R172 accepts: the slice at the start of DOUT, zeros after it, DOUT_LEN;
everything the rule does not name is unchanged. -/
def Obligations.GetDigestSlicePerforms : Prop :=
  ∀ s : State, s.busy = true → s.dout.wf 64 = true → s.sliceOffset.toNat + s.sliceLen.toNat ≤ 64 →
    ∃ d, exec .getDigestSlice s = .next { s with dout := d, doutLen := s.sliceLen, busy := false } ∧
      (∀ k, k < 64 → d.read k =
        if k < s.sliceLen.toNat then byteAt (serialize s.h) (s.sliceOffset.toNat + k) else 0) ∧
      (∀ k, 64 ≤ k → d.read k = s.dout.read k)

/-- The model's choice, log entry 11: performing a slice that R172 never accepts stops with a fault; no byte past the digest is made up. -/
def Obligations.SliceOutOfRangeStops : Prop :=
  ∀ s : State, s.busy = true → 64 < s.sliceOffset.toNat + s.sliceLen.toNat →
    exec .getDigestSlice s = .fault .sliceOutOfRange

/-- The frame of the perform part of the four commands (spec/41_init.md R121; spec/42_compress.md R137; spec/43_finalize.md R156;
spec/44_digest.md R173): BLOCK is never written, DOUT only by INIT and GET_DIGEST_SLICE and only its 64 bytes, H and PHASE not by
GET_DIGEST_SLICE. -/
def Obligations.PerformFrame : Prop :=
  ∀ (i : Instr) (s t : State), s.busy = true → exec i s = .next t →
    t.busy = false ∧ t.pending = s.pending ∧ t.totalSize = s.totalSize ∧ t.sliceOffset = s.sliceOffset ∧ t.sliceLen = s.sliceLen ∧
    t.err = s.err ∧ t.errMulti = s.errMulti ∧ t.errInfo = s.errInfo ∧ t.errLog = s.errLog ∧ t.turns = s.turns ∧ t.reads = s.reads ∧
    (∀ a, t.block.read a = s.block.read a) ∧ (∀ a, 64 ≤ a → t.dout.read a = s.dout.read a) ∧
    (i = .compressBlock ∨ i = .finalize → t.doutLen = s.doutLen ∧ ∀ a, t.dout.read a = s.dout.read a) ∧
    (i = .getDigestSlice → t.h = s.h ∧ t.phase = s.phase)

/-! ## The register window -/

/-- spec/20_memory.md R51: an access of a wrong width, misaligned, or past 0x0FC is a fault of the host's step; any other read completes. -/
def Obligations.BusErrorIsAFault : Prop :=
  ∀ (s : State) (width : Width) (off : Nat) (v : Word32) (rest : List Turn),
    (width ≠ .w32 ∨ off % 4 ≠ 0 ∨ 0x0FC < off →
      (s.turns = .host (.read width off) :: rest → step s = .fault .busError) ∧
      (s.turns = .host (.write width off v) :: rest → step s = .fault .busError)) ∧
    (width = .w32 ∧ off % 4 = 0 ∧ off ≤ 0x0FC → s.turns = .host (.read width off) :: rest → ∃ t, step s = .next t)

/-- spec/20_memory.md R52, R59: what a read returns at every offset, BUSY or not, and that it changes nothing: the word is only added to the
words the host has read (log entry 8). -/
def Obligations.ReadReturnsTheWindowWord : Prop :=
  ∀ (s : State) (off : Nat) (rest : List Turn), s.turns = .host (.read .w32 off) :: rest →
    (off % 4 ≠ 0 ∨ 0x0FC < off → step s = .fault .busError) ∧
    (off % 4 = 0 → off ≤ 0x0FC →
      ∃ v : Word32, step s = .next { s with turns := rest, reads := v :: s.reads } ∧
        (off ≤ 0x07C →
          v = s.block.read off ++ s.block.read (off + 1) ++ s.block.read (off + 2) ++ s.block.read (off + 3)) ∧
        (off = 0x080 → v = s.totalSize.extractLsb' 32 32) ∧ (off = 0x084 → v = s.totalSize.extractLsb' 0 32) ∧
        (off = 0x088 → v = s.sliceOffset) ∧ (off = 0x08C → v = s.sliceLen) ∧ (off = 0x090 → v = 0) ∧
        (off = 0x094 → v = statusWord s) ∧ (off = 0x098 → v = s.doutLen) ∧ (off = 0x09C → v = s.errInfo) ∧
        (0x0A0 ≤ off ∧ off ≤ 0x0BC → v = 0) ∧
        (0x0C0 ≤ off →
          v = s.dout.read (off - 0x0C0) ++ s.dout.read (off - 0x0C0 + 1) ++ s.dout.read (off - 0x0C0 + 2) ++
            s.dout.read (off - 0x0C0 + 3)))

/-- spec/20_memory.md R53: with BUSY = 0 a write to a read/write register replaces exactly the 32 bits it addresses, and nothing else. -/
def Obligations.WriteReplacesExactlyItsBits : Prop :=
  ∀ (s : State) (off : Nat) (v : Word32) (rest : List Turn), s.turns = .host (.write .w32 off v) :: rest →
    s.busy = false → s.block.wf 128 = true → off % 4 = 0 →
    (off ≤ 0x07C → ∃ b, step s = .next { s with turns := rest, block := b } ∧
      (∀ j, j < 4 → b.read (off + j) = v.extractLsb' (24 - 8 * j) 8) ∧
      (∀ a, a < off ∨ off + 4 ≤ a → b.read a = s.block.read a)) ∧
    (off = 0x080 → ∃ x, step s = .next { s with turns := rest, totalSize := x } ∧
      x.extractLsb' 32 32 = v ∧ x.extractLsb' 0 32 = s.totalSize.extractLsb' 0 32) ∧
    (off = 0x084 → ∃ x, step s = .next { s with turns := rest, totalSize := x } ∧
      x.extractLsb' 0 32 = v ∧ x.extractLsb' 32 32 = s.totalSize.extractLsb' 32 32) ∧
    (off = 0x088 → step s = .next { s with turns := rest, sliceOffset := v }) ∧
    (off = 0x08C → step s = .next { s with turns := rest, sliceLen := v })

/-- spec/20_memory.md R53 to R56: after a write to a read/write offset, that offset reads the word written and every other offset reads as
before. -/
def Obligations.ReadAfterWrite : Prop :=
  ∀ (s t : State) (off off' : Nat) (v : Word32), s.busy = false → s.block.wf 128 = true →
    off % 4 = 0 → off ≤ 0x08C → off' % 4 = 0 → off' ≤ 0x0FC →
    windowWrite off v s = .next t →
    windowWord off' t = if off' = off then v else windowWord off' s

/-- spec/20_memory.md R58: a write to a read-only register or a reserved offset does nothing with BUSY = 0, and is a BUSY_WRITE with
BUSY = 1. -/
def Obligations.ReadOnlyOffsetsIgnoreWrites : Prop :=
  ∀ (s : State) (off : Nat) (v : Word32) (rest : List Turn), s.turns = .host (.write .w32 off v) :: rest →
    off % 4 = 0 → 0x094 ≤ off → off ≤ 0x0FC →
    (s.busy = false → step s = .next { s with turns := rest }) ∧
    (s.busy = true → step s = .next (raiseUsageError .busyWrite (BitVec.ofNat 32 off) { s with turns := rest }))

/-- spec/70_reset_and_hazards.md R236 and spec/60_exceptions.md R204: while BUSY = 1 every host write, to any offset of the window, is ignored
and raises BUSY_WRITE with the offset: ERR and ERR_INFO show it where no error was recorded, else they stay and ERR_MULTI is set; the rest of
the engine stays as it was. The model's own log of errors, `errLog`, gets it in both cases (log entry 7, DESIGN CHOICE). -/
def Obligations.BusyWindowIgnoresWrites : Prop :=
  ∀ (s : State) (off : Nat) (v : Word32) (rest : List Turn), s.turns = .host (.write .w32 off v) :: rest →
    off % 4 = 0 → off ≤ 0x0FC → s.busy = true →
    ∃ t, step s = .next t ∧ t = raiseUsageError .busyWrite (BitVec.ofNat 32 off) { s with turns := rest } ∧
      SameButErrorRecord { s with turns := rest } t ∧ t.reads = s.reads ∧
      t.errLog = (.busyWrite, BitVec.ofNat 32 off) :: s.errLog ∧
      (s.err = none → t.err = some .busyWrite ∧ t.errInfo = BitVec.ofNat 32 off ∧ t.errMulti = s.errMulti) ∧
      (∀ e, s.err = some e → t.err = some e ∧ t.errInfo = s.errInfo ∧ t.errMulti = true)

/-- spec/60_exceptions.md R202, R203: one write raises at most one usage error; BUSY_WRITE comes before ILLEGAL_CMD, that before the phase
errors, and those before RANGE. It raises none only with BUSY = 0, when it is no CMD write or its word is a command to which no error of the
checks applies. That exactly one is raised is read off the model's own log of errors, `errLog` (log entry 7, DESIGN CHOICE); where no error was
recorded, ERR and ERR_INFO show it. -/
def Obligations.OneErrorPerWriteInPriorityOrder : Prop :=
  ∀ (s t : State) (off : Nat) (v : Word32), windowWrite off v s = .next t →
    (t.errLog = s.errLog ∧ s.busy = false ∧
      (off = 0x090 → ∃ i, decodeWord v = .command i ∧ t.busy = true ∧ t.pending = some i ∧
        match i with
        | .init => True
        | .compressBlock => s.phase = .fresh ∨ s.phase = .accum
        | .finalize => s.phase = .fresh ∨ s.phase = .accum
        | .getDigestSlice => s.phase = .final ∧ s.sliceOffset.toNat + s.sliceLen.toNat ≤ 64)) ∨
    ∃ e w, t.errLog = (e, w) :: s.errLog ∧ t.busy = s.busy ∧ t.pending = s.pending ∧
      (s.err = none → t.err = some e ∧ t.errInfo = w ∧ t.errMulti = s.errMulti) ∧
      (s.busy = true → e = .busyWrite ∧ w = BitVec.ofNat 32 off) ∧
      (s.busy = false → off = 0x090 ∧ w = v) ∧
      (s.busy = false → (∃ why, decodeWord v = .illegal why) → e = .illegalCmd) ∧
      (s.busy = false → ∀ i, decodeWord v = .command i →
        e = .notInit ∧ s.phase = .uninit ∧ i ≠ .init ∨
        e = .afterFinal ∧ s.phase = .final ∧ (i = .compressBlock ∨ i = .finalize) ∨
        e = .notFinal ∧ (s.phase = .fresh ∨ s.phase = .accum) ∧ i = .getDigestSlice ∨
        e = .range ∧ s.phase = .final ∧ i = .getDigestSlice ∧ 64 < s.sliceOffset.toNat + s.sliceLen.toNat)

/-- spec/10_state.md R22, R31, R32 and spec/60_exceptions.md R201: the layout of STATUS and the numbers a host reads in it: each phase and each
error by its value; reserved bits read 0, and the codes 7 to 15 are never shown. -/
def Obligations.StatusLayout : Prop :=
  ∀ s : State,
    (statusWord s).getLsbD 0 = s.busy ∧
    (statusWord s).extractLsb' 1 2 = (match s.phase with
      | .uninit => 0#2
      | .fresh => 1#2
      | .accum => 2#2
      | .final => 3#2) ∧
    (statusWord s).extractLsb' 3 5 = 0 ∧
    (statusWord s).extractLsb' 8 4 = (match s.err with
      | none => 0#4
      | some .illegalCmd => 1#4
      | some .notInit => 2#4
      | some .notFinal => 3#4
      | some .afterFinal => 4#4
      | some .range => 5#4
      | some .busyWrite => 6#4) ∧
    (statusWord s).getLsbD 12 = s.errMulti ∧
    (statusWord s).extractLsb' 13 19 = 0

/-! ## Reset -/

/-- spec/10_state.md R38 and spec/70_reset_and_hazards.md R232: what reset leaves. Every offset of the window reads 0; no command is in
flight. (Of H the spec gives no value, and this says nothing.) -/
def Obligations.ResetValues : Prop :=
  State.reset.phase = .uninit ∧ State.reset.busy = false ∧ State.reset.pending = none ∧ State.reset.err = none ∧
  State.reset.errMulti = false ∧ State.reset.errInfo = 0 ∧ State.reset.totalSize = 0 ∧ State.reset.sliceOffset = 0 ∧
  State.reset.sliceLen = 0 ∧ State.reset.doutLen = 0 ∧ (∀ a, State.reset.block.read a = 0) ∧ (∀ a, State.reset.dout.read a = 0) ∧
  statusWord State.reset = 0x00000000

/-- spec/70_reset_and_hazards.md R230, R231: reset puts the engine into its reset state in one step and abandons a command in flight: the
engine then has no step to take. -/
def Obligations.ResetAbandonsTheCommand : Prop :=
  ∀ (s : State) (rest : List Turn), s.turns = .reset :: rest →
    ∃ t, step s = .next t ∧ t.busy = false ∧ t.pending = none ∧ t.phase = .uninit ∧ t.err = none ∧
      (∀ off, off % 4 = 0 → off ≤ 0x0FC → windowWord off t = 0) ∧ engineStep t = .next t ∧
      t.turns = rest ∧ t.reads = s.reads

/-! ## Datapath -/

/-- spec/40_datapath.md R100, R101: ROTR moves bit (i + n) mod 64 to bit i; SHR moves zeros in. -/
def Obligations.RotrAndShrMoveBits : Prop :=
  (∀ (x : Word64) (n i : Nat), 1 ≤ n → n ≤ 63 → i < 64 →
    (rotr x n).getLsbD i = x.getLsbD ((i + n) % 64) ∧
    (shr x n).getLsbD i = (decide (i + n < 64) && x.getLsbD (i + n))) ∧
  rotr 0x0123456789abcdef 8 = 0xef0123456789abcd ∧ shr 0x0123456789abcdef 7 = 0x0002468acf13579b

/-- spec/40_datapath.md R103 to R106: the four sigma functions, their corner cases and the spec's examples. -/
def Obligations.SigmaFunctions : Prop :=
  (∀ x : Word64,
    bigSigma0 x = x.rotateRight 28 ^^^ x.rotateRight 34 ^^^ x.rotateRight 39 ∧
    bigSigma1 x = x.rotateRight 14 ^^^ x.rotateRight 18 ^^^ x.rotateRight 41 ∧
    smallSigma0 x = x.rotateRight 1 ^^^ x.rotateRight 8 ^^^ (x >>> 7) ∧
    smallSigma1 x = x.rotateRight 19 ^^^ x.rotateRight 61 ^^^ (x >>> 6)) ∧
  bigSigma0 0 = 0 ∧ bigSigma1 0 = 0 ∧ smallSigma0 0 = 0 ∧ smallSigma1 0 = 0 ∧
  bigSigma0 0xffffffffffffffff = 0xffffffffffffffff ∧ bigSigma1 0xffffffffffffffff = 0xffffffffffffffff ∧
  smallSigma0 0xffffffffffffffff = 0x01ffffffffffffff ∧ smallSigma1 0xffffffffffffffff = 0x03ffffffffffffff ∧
  bigSigma0 1 = 0x0000001042000000 ∧ bigSigma1 1 = 0x0004400000800000 ∧
  smallSigma0 1 = 0x8100000000000000 ∧ smallSigma1 1 = 0x0000200000000008

/-- spec/40_datapath.md R107, R108: Ch selects and Maj takes the majority, bit by bit. -/
def Obligations.ChSelectsAndMajTakesTheMajority : Prop :=
  ∀ (x y z : Word64) (i : Nat), i < 64 →
    (ch x y z).getLsbD i = (if x.getLsbD i then y.getLsbD i else z.getLsbD i) ∧
    ((maj x y z).getLsbD i = true ↔
      2 ≤ (if x.getLsbD i then 1 else 0) + (if y.getLsbD i then 1 else 0) + (if z.getLsbD i then 1 else 0))

/-- spec/40_datapath.md R109: `IV[i] = isqrt(p_i * 2^128) mod 2^64` for the first eight primes. -/
def Obligations.InitialValuesAreSquareRoots : Prop :=
  ∀ px ∈ List.zip [2, 3, 5, 7, 11, 13, 17, 19] iv.words,
    ∃ r : Nat, r ^ 2 ≤ px.1 * 2 ^ 128 ∧ px.1 * 2 ^ 128 < (r + 1) ^ 2 ∧ px.2.toNat = r % 2 ^ 64

/-- spec/40_datapath.md R110: `K[t] = icbrt(p_t * 2^192) mod 2^64` for the eighty primes up to 409. -/
def Obligations.RoundConstantsAreCubeRoots : Prop :=
  roundConstants.length = 80 ∧
  ((List.range 410).filter fun p => decide (2 ≤ p) && (List.range p).all fun d => decide (d < 2) || decide (p % d ≠ 0)).length = 80 ∧
  ∀ px ∈ List.zip
      ((List.range 410).filter fun p => decide (2 ≤ p) && (List.range p).all fun d => decide (d < 2) || decide (p % d ≠ 0))
      roundConstants,
    ∃ r : Nat, r ^ 3 ≤ px.1 * 2 ^ 192 ∧ px.1 * 2 ^ 192 < (r + 1) ^ 3 ∧ px.2.toNat = r % 2 ^ 64

/-! ## Compression -/

/-- spec/42_compress.md R130: the first 16 schedule words are the block's big-endian words: byte `8j` is bits 63:56 of `W[j]`. -/
def Obligations.MessageLoadIsBigEndian : Prop :=
  ∀ (blk : List Byte) (j b : Nat), j < 16 → b < 8 →
    ((schedule blk).getD j 0).extractLsb' (56 - 8 * b) 8 = blk.getD (8 * j + b) 0

/-- spec/42_compress.md R131: the recurrence of the other 64 schedule words, and the spec's example on the padded "abc" block. -/
def Obligations.ScheduleRecurrence : Prop :=
  (∀ (blk : List Byte) (t : Nat), 16 ≤ t → t < 80 →
    (schedule blk).getD t 0 =
      smallSigma1 ((schedule blk).getD (t - 2) 0) + (schedule blk).getD (t - 7) 0 +
        smallSigma0 ((schedule blk).getD (t - 15) 0) + (schedule blk).getD (t - 16) 0) ∧
  (∀ blk : List Byte, (schedule blk).length = 80) ∧
  (schedule ([0x61, 0x62, 0x63, 0x80] ++ List.replicate 123 0 ++ [0x18])).getD 16 0 = 0x6162638000000000 ∧
  (schedule ([0x61, 0x62, 0x63, 0x80] ++ List.replicate 123 0 ++ [0x18])).getD 17 0 = 0x00030000000000c0 ∧
  (schedule ([0x61, 0x62, 0x63, 0x80] ++ List.replicate 123 0 ++ [0x18])).getD 79 0 = 0x92aeeed1a7bcf7d2

/-- spec/42_compress.md R132, R133: one round is one simultaneous update; the working variables start as H; the spec's example of round 0. -/
def Obligations.RoundUpdate : Prop :=
  (∀ (k w : Word64) (v : Working),
    compressRound k w v =
      { a := v.h + bigSigma1 v.e + ch v.e v.f v.g + k + w + (bigSigma0 v.a + maj v.a v.b v.c), b := v.a, c := v.b, d := v.c,
        e := v.d + (v.h + bigSigma1 v.e + ch v.e v.f v.g + k + w), f := v.e, g := v.f, h := v.g }) ∧
  (∀ h : ChainingValue, initialWorking h =
    { a := h.h0, b := h.h1, c := h.h2, d := h.h3, e := h.h4, f := h.h5, g := h.h6, h := h.h7 }) ∧
  (compressRound 0x428a2f98d728ae22 0x6162638000000000 (initialWorking iv)).a = 0xf6afceb8bcfcddf5 ∧
  (compressRound 0x428a2f98d728ae22 0x6162638000000000 (initialWorking iv)).e = 0x58cb02347ab51f91

/-- spec/42_compress.md R134, R135: `Compress` is rounds 0 to 79 in increasing order, round t with K[t] and W[t], and the feed-forward. -/
def Obligations.CompressIsEightyRounds : Prop :=
  ∀ (h : ChainingValue) (blk : List Byte),
    ∃ v : Working,
      v = (List.range 80).foldl (fun u t => compressRound (roundConstants.getD t 0) ((schedule blk).getD t 0) u) (initialWorking h) ∧
      compress h blk =
        { h0 := h.h0 + v.a, h1 := h.h1 + v.b, h2 := h.h2 + v.c, h3 := h.h3 + v.d, h4 := h.h4 + v.e, h5 := h.h5 + v.f,
          h6 := h.h6 + v.g, h7 := h.h7 + v.h }

/-- spec/42_compress.md R141: the padded "abc" block compressed from IV gives SHA-512("abc"). -/
def Obligations.CompressPaddedAbc : Prop :=
  compress iv ([0x61, 0x62, 0x63, 0x80] ++ List.replicate 123 0 ++ [0x18]) =
    { h0 := 0xddaf35a193617aba, h1 := 0xcc417349ae204131, h2 := 0x12e6fa4e89a97ea2, h3 := 0x0a9eeee64b55d39a,
      h4 := 0x2192992a274fc1a8, h5 := 0x36ba3c23a3feebbd, h6 := 0x454d4423643ce80e, h7 := 0x2a9ac94fa54ca49f }

/-! ## Padding -/

/-- spec/43_finalize.md R152, R154: the padding blocks, joined, are the padded message: tail, 0x80, the least number of zero bytes, the
16-byte length field; one block when the tail has at most 111 bytes, else two. -/
def Obligations.PadBlocksAreThePaddedMessage : Prop :=
  ∀ (mode : LenFieldMode) (tail : List Byte) (total : Word64), tail.length ≤ 127 →
    (padBlocks mode tail total).flatten =
      tail ++ [0x80] ++ List.replicate ((239 - tail.length) % 128) 0 ++ be128bytes (lenField mode total) ∧
    (padBlocks mode tail total).length = (if tail.length ≤ 111 then 1 else 2) ∧
    ∀ blk ∈ padBlocks mode tail total, blk.length = 128

/-- spec/43_finalize.md R153: the length field in both modes, that they agree below 2^61, and which of its bytes are always 0. -/
def Obligations.LengthFieldModes : Prop :=
  ∀ total : Word64,
    (lenField .exact total).toNat = total.toNat * 8 ∧ (lenField .exact total).toNat < 2 ^ 67 ∧
    (lenField .wrap64 total).toNat = total.toNat * 8 % 2 ^ 64 ∧
    (total.toNat < 2 ^ 61 → lenField .exact total = lenField .wrap64 total) ∧
    (∀ j, j < 7 → (be128bytes (lenField .exact total)).getD j 0 = 0) ∧
    (be128bytes (lenField .exact total)).getD 7 0 = (total.extractLsb' 61 3).setWidth 8 ∧
    (∀ j, j < 8 → (be128bytes (lenField .wrap64 total)).getD j 0 = 0)

/-- spec/43_finalize.md R151: BLOCK[n..127] is never read: FINALIZE gives the same H whatever stands there. -/
def Obligations.BytesPastTheTailAreIgnored : Prop :=
  ∀ (s t : State) (b : Memory), s.busy = true → (∀ k, k < s.totalSize.toNat % 128 → b.read k = s.block.read k) →
    exec .finalize s = .next t → exec .finalize { s with block := b } = .next { t with block := b }

/-- spec/43_finalize.md R159 and spec/90_conflicts.md C1: FINALIZE with TOTAL_SIZE = 0 right after INIT gives SHA-512 of the empty message. -/
def Obligations.FinalizeEmptyMessage : Prop :=
  ∀ s : State, s.busy = true → s.h = iv → s.totalSize = 0 →
    ∃ t, exec .finalize s = .next t ∧
      t.h = { h0 := 0xcf83e1357eefb8bd, h1 := 0xf1542850d66d8007, h2 := 0xd620e4050b5715dc, h3 := 0x83f4a921d36ce9ce,
              h4 := 0x47d0d13c5d85f2b0, h5 := 0xff8318d2877eec2f, h6 := 0x63b931bd47417a81, h7 := 0xa538327af927da3e }

/-! ## The digest -/

/-- spec/44_digest.md R170: byte `8i + j` of the digest is bits 63-8j:56-8j of `H[i]`. -/
def Obligations.SerializeIsBigEndian : Prop :=
  ∀ (h : ChainingValue) (i j : Nat), i < 8 → j < 8 →
    (serialize h).length = 64 ∧ (serialize h).getD (8 * i + j) 0 = (h.words.getD i 0).extractLsb' (56 - 8 * j) 8

/-- spec/44_digest.md R176: the slices (a, b-a) and (b, 64-b) joined are the whole digest from a on. -/
def Obligations.SliceComposition : Prop :=
  ∀ (s t1 t2 t : State) (a b : Nat), s.busy = true → s.dout.wf 64 = true → a ≤ b → b ≤ 64 →
    exec .getDigestSlice { s with sliceOffset := BitVec.ofNat 32 a, sliceLen := BitVec.ofNat 32 (b - a) } = .next t1 →
    exec .getDigestSlice { s with sliceOffset := BitVec.ofNat 32 b, sliceLen := BitVec.ofNat 32 (64 - b) } = .next t2 →
    exec .getDigestSlice { s with sliceOffset := 0, sliceLen := 64 } = .next t →
    t1.dout.load 0 t1.doutLen.toNat ++ t2.dout.load 0 t2.doutLen.toNat = (t.dout.load 0 t.doutLen.toNat).drop a

/-- spec/20_memory.md R55: `W[j] = {BLOCK_W[2j], BLOCK_W[2j+1]}`, and after the slice (0, 64) `H[i] = {DOUT_W[2i], DOUT_W[2i+1]}`. -/
def Obligations.BusWordsPackBigEndian : Prop :=
  (∀ (s : State) (j : Nat), j < 16 →
    (messageWords (blockOperand s)).getD j 0 = windowWord (8 * j) s ++ windowWord (8 * j + 4) s) ∧
  (∀ (s t : State) (i : Nat), i < 8 → s.busy = true → s.dout.wf 64 = true → s.sliceOffset = 0 → s.sliceLen = 64 →
    exec .getDigestSlice s = .next t →
    s.h.words.getD i 0 = windowWord (0x0C0 + 8 * i) t ++ windowWord (0x0C4 + 8 * i) t)

/-! ## The whole machine -/

/-- The invariant of the engine holds right after reset. -/
def Obligations.EngineInvAtReset : Prop := EngineInv State.reset

/-- Every step keeps the invariant of the engine: the buffers stay canonical, DOUT never shows anything but a slice of the digest of H, and
nothing outside FINAL, a pending command stays one that its checks accept, and the error record stays consistent
(spec/10_state.md R20 to R34; spec/70_reset_and_hazards.md R233, R234, R236). -/
def Obligations.StepKeepsEngineInv : Prop :=
  ∀ s t : State, EngineInv s → step s = .next t → EngineInv t

/-- spec/20_memory.md R57 and spec/70_reset_and_hazards.md R236: a step that leaves BUSY = 1 leaves the pending command, its operands, and
everything a command writes as they were: a command reads what was there when its CMD write was accepted. -/
def Obligations.OperandsAreStableWhileBusy : Prop :=
  ∀ s t : State, s.busy = true → step s = .next t → t.busy = true →
    t.pending = s.pending ∧ t.h = s.h ∧ t.phase = s.phase ∧ t.totalSize = s.totalSize ∧ t.sliceOffset = s.sliceOffset ∧
    t.sliceLen = s.sliceLen ∧ t.doutLen = s.doutLen ∧ (∀ a, t.block.read a = s.block.read a) ∧
    (∀ a, t.dout.read a = s.dout.read a)

/-- spec/10_state.md R23: PHASE changes only by reset and when a command is performed, as in the rule's table. -/
def Obligations.PhaseChangesOnlyByTheTable : Prop :=
  ∀ s t : State, EngineInv s → step s = .next t →
    t.phase = s.phase ∨ (∃ rest, s.turns = .reset :: rest ∧ t.phase = .uninit) ∨
    (engineMovesNext s ∧ s.busy = true ∧ t.busy = false ∧
      ((s.pending = some .init ∧ t.phase = .fresh) ∨
       (s.pending = some .compressBlock ∧ (s.phase = .fresh ∨ s.phase = .accum) ∧ t.phase = .accum) ∨
       (s.pending = some .finalize ∧ (s.phase = .fresh ∨ s.phase = .accum) ∧ t.phase = .final)))

/-- spec/10_state.md R20, R21: only INIT, COMPRESS_BLOCK and FINALIZE write H, each at its perform step (reset, of which the spec gives no
value of H, apart: log entry 3). -/
def Obligations.OnlyThreeCommandsWriteH : Prop :=
  ∀ s t : State, step s = .next t → t.h ≠ s.h →
    (∃ rest, s.turns = .reset :: rest) ∨
    (engineMovesNext s ∧ s.busy = true ∧ t.busy = false ∧
      ((s.pending = some .init ∧ t.h = iv) ∨
       (s.pending = some .compressBlock ∧ t.h = compress s.h (blockOperand s)) ∨
       s.pending = some .finalize))

/-- spec/10_state.md R20 and spec/20_memory.md R61: the chaining value reaches nothing else in the state, and no word a host reads, except by
a performed GET_DIGEST_SLICE, which only phase FINAL can hold pending. -/
def Obligations.ChainingValueIsHidden : Prop :=
  (∀ s s' : State, SameButChainingValue s s' → ¬ (engineMovesNext s ∧ s.busy = true ∧ s.pending = some .getDigestSlice) →
    (∀ t, step s = .next t → ∃ t', step s' = .next t' ∧ SameButChainingValue t t') ∧
    (∀ r, step s = .fault r → step s' = .fault r)) ∧
  (∀ s : State, EngineInv s → s.phase ≠ .final → ¬ (s.busy = true ∧ s.pending = some .getDigestSlice))

/-- spec/60_exceptions.md R205: a recorded error stops nothing: two engines that differ only in the error record (and in what was read of it)
take the same steps. -/
def Obligations.ErrorRecordDoesNotSteer : Prop :=
  ∀ s s' : State, SameButErrorRecord s s' →
    (∀ t, step s = .next t → ∃ t', step s' = .next t' ∧ SameButErrorRecord t t') ∧
    (∀ r, step s = .fault r → step s' = .fault r)

/-- spec/20_memory.md R51 and spec/60_exceptions.md R200: in a state of the invariant a step is stopped by a bus error alone, for an access that
does not exist, and is never refused. -/
def Obligations.OnlyBusErrorsStop : Prop :=
  ∀ s : State, EngineInv s →
    (∃ t, step s = .next t) ∨
    (step s = .fault .busError ∧ ∃ width off rest, (width ≠ .w32 ∨ off % 4 ≠ 0 ∨ 0x0FC < off) ∧
      (s.turns = .host (.read width off) :: rest ∨ ∃ v, s.turns = .host (.write width off v) :: rest))

/-- spec/70_reset_and_hazards.md R235: every accepted command is performed, unless reset intervenes. With command `i` pending and nothing but
host accesses before the engine moves, the run reaches, past those accesses, a state `m` with the operands of `s`, and its next step is the
perform part of `i` there. And whatever the inputs still to come, resets among them, BUSY is 0 once they are used up and the engine has had
its turn. A bus error ends the run before that (log entry 4). That the engine moves when no input is left is the model's form of the rule's
fairness (log entry 2, DESIGN CHOICE). -/
def Obligations.EveryAcceptedCommandIsPerformed : Prop :=
  ∀ s : State, EngineInv s →
    (∀ (i : Instr) (hosts rest : List Turn), s.busy = true → s.pending = some i → (∀ u ∈ hosts, ∃ a, u = .host a) →
      (s.turns = hosts ∧ rest = []) ∨ s.turns = hosts ++ .engine :: rest →
      Host.Core.run Sys2Proof.core hosts.length s = .fault Fault.busError ∨
      ∃ m t : State, Host.Core.run Sys2Proof.core hosts.length s = .next m ∧
        SameButErrorRecord { s with turns := m.turns } m ∧ exec i { m with turns := rest } = .next t ∧
        Host.Core.run Sys2Proof.core (hosts.length + 1) s = .next t ∧ t.busy = false) ∧
    (match Host.Core.run Sys2Proof.core (s.turns.length + 1) s with
      | .next t => State.turns t = [] ∧ State.busy t = false
      | .fault r => r = Fault.busError
      | .refused _ => False)

/-- spec/60_exceptions.md R206, R204: a step keeps the recorded error, its ERR_INFO and a set ERR_MULTI, except reset and the CMD write of an
accepted INIT, which clear all three. -/
def Obligations.ErrorsAreClearedOnlyByInitAndReset : Prop :=
  ∀ (s t : State) (e : UsageError), s.err = some e → step s = .next t →
    (t.err = some e ∧ t.errInfo = s.errInfo ∧ (s.errMulti = true → t.errMulti = true)) ∨
    (t.err = none ∧ t.errMulti = false ∧ t.errInfo = 0 ∧
      ((∃ rest, s.turns = .reset :: rest) ∨
       ∃ v rest, s.turns = .host (.write .w32 0x090 v) :: rest ∧ s.busy = false ∧ decodeWord v = .command .init))

/-! ## Around the engine -/

/-- spec/60_exceptions.md R214 and spec/20_memory.md R50: the engines of a platform share nothing. What happens to one, an access outside an
engine's window included, leaves that engine as it was. What happens to an engine is what its own state makes of it: an access inside its
window is the access at that offset, its step is `engineStep`, its reset `resetEngine`; every other engine stays. An access in no window
changes no engine. Engines and bases as a list are the model's form (log entry 6). -/
def Obligations.PlatformEnginesAreIndependent : Prop :=
  (∀ (p q : List EngineAt) (u : PlatformTurn), platformStep u p = .next q →
    q.map EngineAt.base = p.map EngineAt.base ∧
    ∀ (k : Nat) (e : EngineAt), p[k]? = some e →
      (match u with
        | .host a => inWindow e.base (platformAddress a) = false
        | .engine j => j ≠ k
        | .reset j => j ≠ k) →
      q[k]? = some e) ∧
  (∀ (p : List EngineAt) (k : Nat) (e : EngineAt), p[k]? = some e →
    (∀ a : PlatformAccess, platformWellFormed p = true → inWindow e.base (platformAddress a) = true →
      (∀ t, busAccess (windowAccess e.base a) e.engine = .next t →
        platformStep (.host a) p = .next (p.set k { e with engine := t })) ∧
      (∀ r, busAccess (windowAccess e.base a) e.engine = .fault r → platformStep (.host a) p = .fault r)) ∧
    (∀ t, engineStep e.engine = .next t → platformStep (.engine k) p = .next (p.set k { e with engine := t })) ∧
    (∀ r, engineStep e.engine = .fault r → platformStep (.engine k) p = .fault r) ∧
    platformStep (.reset k) p = .next (p.set k { e with engine := resetEngine e.engine })) ∧
  (∀ (p : List EngineAt) (a : PlatformAccess), (∀ e ∈ p, inWindow e.base (platformAddress a) = false) →
    platformStep (.host a) p = .next p)

/-- spec/30_encoding.md R87, R88 and spec/70_reset_and_hazards.md R236: WAIT reads STATUS and goes round while BUSY = 1, goes on when it is 0,
and touches nothing of the engine. -/
def Obligations.WaitGoesRoundWhileBusy : Prop :=
  ∀ (a : HostAgent) (s : State) (label name : Nat), a.failed = false →
    a.script[a.line]? = some ⟨some label, .rd 0x094 (some name)⟩ →
    a.script[a.line + 1]? = some (plainLine (.bnz name 0x00000001 label)) →
    findLabel label a.script = some a.line →
    ∃ a', agentsRun [false, false] a s = .next (a', { s with reads := statusWord s :: s.reads }) ∧
      a'.failed = false ∧ a'.script = a.script ∧ a'.line = (if s.busy then a.line else a.line + 2)
end

