-- ==== Sys2Proof/Laws/Bytes.lean ====
section
/-!
SUPPORT. The laws of byte order and of the bytes a digest slice writes.
-/
namespace Sys2Proof.Machine

@[simp] theorem be32bytes_length (w : Word32) : (be32bytes w).length = 4 := rfl

@[simp] theorem be64bytes_length (w : Word64) : (be64bytes w).length = 8 := rfl

@[simp] theorem be128bytes_length (v : BitVec 128) : (be128bytes v).length = 16 := rfl

@[simp] theorem words_length (h : ChainingValue) : h.words.length = 8 := rfl

@[simp] theorem serialize_length (h : ChainingValue) : (serialize h).length = 64 := rfl

@[simp] theorem sliceBytes_length (h : ChainingValue) (off len : Nat) : (sliceBytes h off len).length = 64 := by
  simp [sliceBytes]

/-- Byte `k` of what GET_DIGEST_SLICE writes (spec/44_digest.md R173). -/
theorem sliceBytes_getD (h : ChainingValue) (off len k : Nat) (hk : k < 64) :
    (sliceBytes h off len).getD k 0 = if k < len then byteAt (serialize h) (off + k) else 0 := by
  simp [sliceBytes, List.getD_eq_getElem?_getD, hk]

/-- Adjacent bit fields join into one. -/
theorem join_fields {w : Nat} (x : BitVec w) (a m n : Nat) :
    x.extractLsb' (a + n) m ++ x.extractLsb' a n = x.extractLsb' a (m + n) :=
  BitVec.extractLsb'_append_extractLsb'_eq_extractLsb' rfl

/-- The high field of two joined words (spec/20_memory.md R56). -/
@[simp] theorem extract_high (v w : Word32) : (v ++ w : Word64).extractLsb' 32 32 = v := by
  apply BitVec.eq_of_getLsbD_eq
  intro i hi
  rw [BitVec.getLsbD_extractLsb', BitVec.getLsbD_append, if_neg (by omega), Nat.add_sub_cancel_left]
  simp [hi]

/-- The low field of two joined words (spec/20_memory.md R56). -/
@[simp] theorem extract_low (v w : Word32) : (v ++ w : Word64).extractLsb' 0 32 = w := by
  apply BitVec.eq_of_getLsbD_eq
  intro i hi
  rw [BitVec.getLsbD_extractLsb', BitVec.getLsbD_append, if_pos (by omega), Nat.zero_add]
  simp [hi]

/-- Packing the four bytes of a bus word gives the word back (spec/00_scope.md R10). -/
theorem be32_be32bytes (w : Word32) : be32 (be32bytes w) 0 = w := by
  simp only [be32, byteAt, be32bytes, List.getD_cons_zero, List.getD_cons_succ]
  rw [join_fields w 16 8 8, join_fields w 8 16 8, join_fields w 0 24 8, BitVec.extractLsb'_eq_self]

/-- Packing the eight bytes of a datapath word gives the word back (spec/00_scope.md R10). -/
theorem be64_be64bytes (w : Word64) : be64 (be64bytes w) 0 = w := by
  simp only [be64, byteAt, be64bytes, List.getD_cons_zero, List.getD_cons_succ]
  rw [join_fields w 48 8 8, join_fields w 40 16 8, join_fields w 32 24 8, join_fields w 24 32 8, join_fields w 16 40 8,
    join_fields w 8 48 8, join_fields w 0 56 8, BitVec.extractLsb'_eq_self]

end Sys2Proof.Machine
end

