-- ==== Sys2Proof/Laws/Memory.lean ====
section
/-!
SUPPORT. The laws of the byte buffers: read after write, and that every operation keeps the canonical form.
-/
namespace Sys2Proof.Machine

@[simp] theorem Memory.read_nil (a : Nat) : Memory.read [] a = 0 := rfl

@[simp] theorem Memory.store_nil (m : Memory) (a : Nat) : Memory.store m a [] = m := rfl

@[simp] theorem Memory.wf_nil (size : Nat) : Memory.wf size [] = true := rfl

/-- An index below every cell of a canonical buffer reads 0. -/
theorem Memory.read_below {hi : Nat} : ∀ {m : Memory} {lo a : Nat}, Memory.wfFrom hi lo m = true → a < lo → Memory.read m a = 0
  | [], _, _, _, _ => rfl
  | (b, x) :: m, lo, a, h, hlt => by
    simp only [Memory.wfFrom, Bool.and_eq_true, decide_eq_true_eq] at h
    have hb : b ≠ a := by omega
    rw [Memory.read, if_neg hb]
    exact Memory.read_below h.2 (by omega)

/-- An index at or past the end of a canonical buffer reads 0. -/
theorem Memory.read_above {hi : Nat} : ∀ {m : Memory} {lo a : Nat}, Memory.wfFrom hi lo m = true → hi ≤ a → Memory.read m a = 0
  | [], _, _, _, _ => rfl
  | (b, x) :: m, lo, a, h, hle => by
    simp only [Memory.wfFrom, Bool.and_eq_true, decide_eq_true_eq] at h
    have hb : b ≠ a := by omega
    rw [Memory.read, if_neg hb]
    exact Memory.read_above h.2 hle

/-- A canonical form may be read with a lower bound further down. -/
theorem Memory.wfFrom_mono {hi lo lo' : Nat} {m : Memory} (h : Memory.wfFrom hi lo m = true) (hle : lo' ≤ lo) :
    Memory.wfFrom hi lo' m = true := by
  cases m with
  | nil => rfl
  | cons c m =>
    simp only [Memory.wfFrom, Bool.and_eq_true, decide_eq_true_eq] at h ⊢
    exact ⟨⟨⟨by omega, h.1.1.2⟩, h.1.2⟩, h.2⟩

/-- A write keeps the canonical form. -/
theorem Memory.write_wfFrom {hi : Nat} : ∀ {m : Memory} {lo a : Nat} {v : Byte},
    Memory.wfFrom hi lo m = true → lo ≤ a → a < hi → Memory.wfFrom hi lo (Memory.write m a v) = true
  | [], lo, a, v, _, hlo, hhi => by
    unfold Memory.write
    split
    · rfl
    · next hv => simpa [Memory.wfFrom, hlo, hhi] using hv
  | (b, x) :: m, lo, a, v, h, hlo, hhi => by
    have h' := h
    simp only [Memory.wfFrom, Bool.and_eq_true, decide_eq_true_eq] at h
    obtain ⟨⟨⟨h1, h2⟩, h3⟩, h4⟩ := h
    unfold Memory.write
    split
    · next hlt =>
      simp only [Memory.wfFrom, Bool.and_eq_true, decide_eq_true_eq]
      exact ⟨⟨⟨h1, h2⟩, h3⟩, Memory.write_wfFrom h4 (by omega) hhi⟩
    · next hnlt =>
      split
      · next heq =>
        subst heq
        split
        · exact Memory.wfFrom_mono h4 (by omega)
        · next hv =>
          simp only [Memory.wfFrom, Bool.and_eq_true, decide_eq_true_eq]
          exact ⟨⟨⟨hlo, hhi⟩, hv⟩, h4⟩
      · next hne =>
        split
        · exact h'
        · next hv =>
          simp only [Memory.wfFrom, Bool.and_eq_true, decide_eq_true_eq]
          exact ⟨⟨⟨hlo, hhi⟩, hv⟩, ⟨⟨⟨by omega, h2⟩, h3⟩, h4⟩⟩

/-- A write keeps the canonical form of a buffer. -/
theorem Memory.write_wf {size a : Nat} {v : Byte} {m : Memory} (h : m.wf size = true) (ha : a < size) :
    (m.write a v).wf size = true := Memory.write_wfFrom h (Nat.zero_le a) ha

/-- Storing consecutive bytes inside a buffer keeps its canonical form. -/
theorem Memory.store_wf {size : Nat} : ∀ {vs : List Byte} {a : Nat} {m : Memory},
    m.wf size = true → a + vs.length ≤ size → (m.store a vs).wf size = true
  | [], _, _, h, _ => h
  | v :: vs, a, m, h, hle => by
    rw [List.length_cons] at hle
    exact Memory.store_wf (vs := vs) (Memory.write_wf h (by omega)) (by omega)

/-- Reading the byte just written to a buffer in canonical form gives it back. -/
theorem Memory.read_write_self {hi : Nat} : ∀ {m : Memory} {lo a : Nat} {v : Byte},
    Memory.wfFrom hi lo m = true → Memory.read (Memory.write m a v) a = v
  | [], lo, a, v, _ => by
    unfold Memory.write
    split
    · next hv => simp [hv]
    · simp [Memory.read]
  | (b, x) :: m, lo, a, v, h => by
    simp only [Memory.wfFrom, Bool.and_eq_true, decide_eq_true_eq] at h
    unfold Memory.write
    split
    · next hlt =>
      rw [Memory.read, if_neg (by omega)]
      exact Memory.read_write_self h.2
    · next hnlt =>
      split
      · next heq =>
        split
        · next hv => rw [hv]; exact Memory.read_below h.2 (by omega)
        · rw [Memory.read, if_pos rfl]
      · next hne =>
        split
        · next hv =>
          rw [Memory.read, if_neg hne, hv]
          exact Memory.read_below h.2 (by omega)
        · rw [Memory.read, if_pos rfl]

/-- A write leaves every other byte alone. -/
theorem Memory.read_write_other : ∀ {m : Memory} {a b : Nat} {v : Byte}, a ≠ b →
    Memory.read (Memory.write m a v) b = Memory.read m b
  | [], a, b, v, hne => by
    unfold Memory.write
    split
    · rfl
    · simp [Memory.read, hne]
  | (c, x) :: m, a, b, v, hne => by
    unfold Memory.write
    split
    · rw [Memory.read, Memory.read, Memory.read_write_other hne]
    · split
      · next heq =>
        subst heq
        split
        · rw [Memory.read, if_neg hne]
        · rw [Memory.read, if_neg hne, Memory.read, if_neg hne]
      · split
        · rfl
        · rw [Memory.read, if_neg hne]

/-- A byte outside the stored bytes is unchanged. -/
theorem Memory.read_store_other : ∀ {vs : List Byte} {m : Memory} {a b : Nat}, b < a ∨ a + vs.length ≤ b →
    Memory.read (Memory.store m a vs) b = Memory.read m b
  | [], _, _, _, _ => rfl
  | v :: vs, m, a, b, h => by
    rw [List.length_cons] at h
    rw [Memory.store, Memory.read_store_other (by omega), Memory.read_write_other (by omega)]

/-- A byte inside the stored bytes is the one stored there. -/
theorem Memory.read_store_inside {size : Nat} : ∀ {vs : List Byte} {m : Memory} {a k : Nat},
    m.wf size = true → a + vs.length ≤ size → k < vs.length → Memory.read (Memory.store m a vs) (a + k) = vs.getD k 0
  | [], _, _, _, _, _, hk => by simp at hk
  | v :: vs, m, a, 0, h, hle, _ => by
    rw [Memory.store, Memory.read_store_other (by omega)]
    exact Memory.read_write_self h
  | v :: vs, m, a, k + 1, h, hle, hk => by
    rw [List.length_cons] at hle hk
    rw [Memory.store, show a + (k + 1) = a + 1 + k by omega,
      Memory.read_store_inside (Memory.write_wf h (by omega)) (by omega) (by omega)]
    rfl

@[simp] theorem Memory.load_length : ∀ (m : Memory) (a n : Nat), (m.load a n).length = n
  | _, _, 0 => rfl
  | m, a, n + 1 => by simp [Memory.load, Memory.load_length m (a + 1) n]

/-- Entry `k` of the bytes loaded from `a` on is the byte at `a + k`. -/
theorem Memory.load_getD : ∀ {n k a : Nat} {m : Memory}, k < n → (m.load a n).getD k 0 = m.read (a + k)
  | 0, _, _, _, h => by omega
  | n + 1, 0, a, m, _ => rfl
  | n + 1, k + 1, a, m, h => by
    rw [Memory.load, List.getD_cons_succ, Memory.load_getD (by omega)]
    congr 1; omega

/-- Loads agree where the bytes agree. -/
theorem Memory.load_congr : ∀ {n a : Nat} {m m' : Memory}, (∀ k, a ≤ k → k < a + n → m.read k = m'.read k) →
    m.load a n = m'.load a n
  | 0, _, _, _, _ => rfl
  | n + 1, a, m, m', h => by
    rw [Memory.load, Memory.load, h a (Nat.le_refl a) (by omega), Memory.load_congr fun k h1 h2 => h k (by omega) (by omega)]

/-- Buffers in canonical form that read alike are equal data. -/
theorem Memory.eq_of_read {hi : Nat} : ∀ {m m' : Memory} {lo : Nat}, Memory.wfFrom hi lo m = true → Memory.wfFrom hi lo m' = true →
    (∀ a, m.read a = m'.read a) → m = m'
  | [], [], _, _, _, _ => rfl
  | [], (b, y) :: m', lo, _, h', heq => by
    have hb := heq b
    simp only [Memory.wfFrom, Bool.and_eq_true, decide_eq_true_eq] at h'
    rw [Memory.read, Memory.read, if_pos rfl] at hb
    exact absurd hb.symm h'.1.2
  | (b, x) :: m, [], lo, h, _, heq => by
    have hb := heq b
    simp only [Memory.wfFrom, Bool.and_eq_true, decide_eq_true_eq] at h
    rw [Memory.read, Memory.read, if_pos rfl] at hb
    exact absurd hb h.1.2
  | (b, x) :: m, (c, y) :: m', lo, h, h', heq => by
    simp only [Memory.wfFrom, Bool.and_eq_true, decide_eq_true_eq] at h h'
    have hb := heq b
    have hc := heq c
    simp only [Memory.read] at hb hc
    have hbc : b = c := by
      rcases Nat.lt_trichotomy b c with hlt | heq' | hgt
      · rw [if_pos trivial, if_neg (by omega), Memory.read_below h'.2 (by omega)] at hb
        exact absurd hb h.1.2
      · exact heq'
      · rw [if_neg (by omega), if_pos trivial, Memory.read_below h.2 (by omega)] at hc
        exact absurd hc.symm h'.1.2
    subst hbc
    simp only [if_true] at hb
    subst hb
    have hrest : ∀ a, Memory.read m a = Memory.read m' a := by
      intro a
      by_cases ha : a < b + 1
      · rw [Memory.read_below h.2 ha, Memory.read_below h'.2 ha]
      · have := heq a
        rwa [Memory.read, Memory.read, if_neg (by omega), if_neg (by omega)] at this
    rw [Memory.eq_of_read h.2 h'.2 hrest]

end Sys2Proof.Machine
end

