-- ==== Sys2Proof/Laws/Compress.lean ====
section
/-!
SUPPORT. The laws of the compression function and of padding.
-/
namespace Sys2Proof.Machine

@[simp] theorem roundConstants_length : roundConstants.length = 80 := rfl

@[simp] theorem messageWords_length (blk : List Byte) : (messageWords blk).length = 16 := by simp [messageWords]

@[simp] theorem extendSchedule_length : ∀ (n : Nat) (ws : List Word64), (extendSchedule n ws).length = n + ws.length
  | 0, ws => by simp [extendSchedule]
  | n + 1, ws => by rw [extendSchedule, extendSchedule_length]; simp; omega

/-- The schedule has 80 words (spec/42_compress.md R131). -/
@[simp] theorem schedule_length (blk : List Byte) : (schedule blk).length = 80 := by simp [schedule]

/-- Extending a schedule leaves the words already there, further from the front. -/
theorem extendSchedule_getD_old : ∀ (n : Nat) (ws : List Word64) (k : Nat), (extendSchedule n ws).getD (n + k) 0 = ws.getD k 0
  | 0, ws, k => by simp [extendSchedule]
  | n + 1, ws, k => by
    rw [extendSchedule, show n + 1 + k = n + (k + 1) by omega, extendSchedule_getD_old n, List.getD_cons_succ]

/-- `Compress` unfolded once (spec/42_compress.md R134). -/
theorem compress_eq (h : ChainingValue) (blk : List Byte) :
    compress h blk = feedForward h (compressRounds roundConstants (schedule blk) (initialWorking h)) := by
  rw [compress]

/-- Blocks are compressed in order (spec/43_finalize.md R156). -/
theorem compressAll_append : ∀ (xs ys : List (List Byte)) (h : ChainingValue),
    compressAll h (xs ++ ys) = compressAll (compressAll h xs) ys
  | [], _, _ => rfl
  | x :: xs, ys, h => by rw [List.cons_append, compressAll, compressAll, compressAll_append xs]

/-- The EXACT case of the length field (spec/43_finalize.md R153). -/
theorem lenField_exact (total : Word64) : lenField .exact total = exactBitLength total := by
  unfold lenField; split <;> rfl

/-- Below 2^61 the product fits in 64 bits, so both forms of the bit length are the same value. -/
theorem wrappedBitLength_eq (total : Word64) (h : total.toNat < 2 ^ 61) : wrappedBitLength total = exactBitLength total := by
  apply BitVec.eq_of_toNat_eq
  have h64 : (8 : BitVec 64).toNat = 8 := rfl
  have h128 : (8 : BitVec 128).toNat = 8 := rfl
  simp only [wrappedBitLength, exactBitLength, BitVec.toNat_setWidth, BitVec.toNat_mul, h64, h128]
  omega

/-- The WRAP64 case of the length field (spec/43_finalize.md R153). -/
theorem lenField_wrap64 (total : Word64) : lenField .wrap64 total = wrappedBitLength total := by
  unfold lenField
  split
  · next h => exact (wrappedBitLength_eq total h).symm
  · rfl

/-- Every padding block has 128 bytes (spec/43_finalize.md R154). -/
theorem padBlocks_length_eq (mode : LenFieldMode) (tail : List Byte) (total : Word64) (htail : tail.length ≤ 127) :
    ∀ blk ∈ padBlocks mode tail total, blk.length = 128 := by
  intro blk hblk
  unfold padBlocks at hblk
  split at hblk
  · rw [List.mem_singleton] at hblk
    subst hblk
    simp [be128bytes, be64bytes]; omega
  · rw [List.mem_cons, List.mem_singleton] at hblk
    rcases hblk with rfl | rfl
    · simp; omega
    · simp [be128bytes, be64bytes]

/-- The tail is at most 127 bytes (spec/43_finalize.md R150). -/
theorem tailLength_le (total : Word64) : tailLength total ≤ 127 := by
  unfold tailLength
  have := (total.extractLsb' 0 7).isLt
  omega

@[simp] theorem tailOperand_length (s : State) : (tailOperand s).length = tailLength s.totalSize :=
  Memory.load_length _ _ _

@[simp] theorem blockOperand_length (s : State) : (blockOperand s).length = 128 := Memory.load_length _ _ _

end Sys2Proof.Machine
end

