-- ==== Sys2Proof/Laws/State.lean ====
section
/-!
SUPPORT. Beside State: what each named operation does to each field, one lemma per field per operation, so that no later proof unfolds a
record update.
-/
namespace Sys2Proof.Machine

@[simp] theorem raiseUsageError_h (e : UsageError) (w : Word32) (s : State) : (raiseUsageError e w s).h = s.h := by unfold raiseUsageError; split <;> rfl
@[simp] theorem raiseUsageError_phase (e : UsageError) (w : Word32) (s : State) : (raiseUsageError e w s).phase = s.phase := by unfold raiseUsageError; split <;> rfl
@[simp] theorem raiseUsageError_block (e : UsageError) (w : Word32) (s : State) : (raiseUsageError e w s).block = s.block := by unfold raiseUsageError; split <;> rfl
@[simp] theorem raiseUsageError_totalSize (e : UsageError) (w : Word32) (s : State) : (raiseUsageError e w s).totalSize = s.totalSize := by unfold raiseUsageError; split <;> rfl
@[simp] theorem raiseUsageError_sliceOffset (e : UsageError) (w : Word32) (s : State) : (raiseUsageError e w s).sliceOffset = s.sliceOffset := by unfold raiseUsageError; split <;> rfl
@[simp] theorem raiseUsageError_sliceLen (e : UsageError) (w : Word32) (s : State) : (raiseUsageError e w s).sliceLen = s.sliceLen := by unfold raiseUsageError; split <;> rfl
@[simp] theorem raiseUsageError_dout (e : UsageError) (w : Word32) (s : State) : (raiseUsageError e w s).dout = s.dout := by unfold raiseUsageError; split <;> rfl
@[simp] theorem raiseUsageError_doutLen (e : UsageError) (w : Word32) (s : State) : (raiseUsageError e w s).doutLen = s.doutLen := by unfold raiseUsageError; split <;> rfl
@[simp] theorem raiseUsageError_busy (e : UsageError) (w : Word32) (s : State) : (raiseUsageError e w s).busy = s.busy := by unfold raiseUsageError; split <;> rfl
@[simp] theorem raiseUsageError_pending (e : UsageError) (w : Word32) (s : State) : (raiseUsageError e w s).pending = s.pending := by unfold raiseUsageError; split <;> rfl
@[simp] theorem raiseUsageError_turns (e : UsageError) (w : Word32) (s : State) : (raiseUsageError e w s).turns = s.turns := by unfold raiseUsageError; split <;> rfl
@[simp] theorem raiseUsageError_reads (e : UsageError) (w : Word32) (s : State) : (raiseUsageError e w s).reads = s.reads := by unfold raiseUsageError; split <;> rfl
@[simp] theorem raiseUsageError_errLog (e : UsageError) (w : Word32) (s : State) : (raiseUsageError e w s).errLog = (e, w) :: s.errLog := by unfold raiseUsageError; split <;> rfl

@[simp] theorem clearErrors_h (s : State) : (clearErrors s).h = s.h := rfl
@[simp] theorem clearErrors_phase (s : State) : (clearErrors s).phase = s.phase := rfl
@[simp] theorem clearErrors_block (s : State) : (clearErrors s).block = s.block := rfl
@[simp] theorem clearErrors_totalSize (s : State) : (clearErrors s).totalSize = s.totalSize := rfl
@[simp] theorem clearErrors_sliceOffset (s : State) : (clearErrors s).sliceOffset = s.sliceOffset := rfl
@[simp] theorem clearErrors_sliceLen (s : State) : (clearErrors s).sliceLen = s.sliceLen := rfl
@[simp] theorem clearErrors_dout (s : State) : (clearErrors s).dout = s.dout := rfl
@[simp] theorem clearErrors_doutLen (s : State) : (clearErrors s).doutLen = s.doutLen := rfl
@[simp] theorem clearErrors_busy (s : State) : (clearErrors s).busy = s.busy := rfl
@[simp] theorem clearErrors_pending (s : State) : (clearErrors s).pending = s.pending := rfl
@[simp] theorem clearErrors_err (s : State) : (clearErrors s).err = none := rfl
@[simp] theorem clearErrors_errMulti (s : State) : (clearErrors s).errMulti = false := rfl
@[simp] theorem clearErrors_errInfo (s : State) : (clearErrors s).errInfo = 0 := rfl
@[simp] theorem clearErrors_turns (s : State) : (clearErrors s).turns = s.turns := rfl
@[simp] theorem clearErrors_reads (s : State) : (clearErrors s).reads = s.reads := rfl
@[simp] theorem clearErrors_errLog (s : State) : (clearErrors s).errLog = s.errLog := rfl

@[simp] theorem acceptCommand_h (i : Instr) (s : State) : (acceptCommand i s).h = s.h := by unfold acceptCommand; split <;> rfl
@[simp] theorem acceptCommand_phase (i : Instr) (s : State) : (acceptCommand i s).phase = s.phase := by unfold acceptCommand; split <;> rfl
@[simp] theorem acceptCommand_block (i : Instr) (s : State) : (acceptCommand i s).block = s.block := by unfold acceptCommand; split <;> rfl
@[simp] theorem acceptCommand_totalSize (i : Instr) (s : State) : (acceptCommand i s).totalSize = s.totalSize := by unfold acceptCommand; split <;> rfl
@[simp] theorem acceptCommand_sliceOffset (i : Instr) (s : State) : (acceptCommand i s).sliceOffset = s.sliceOffset := by unfold acceptCommand; split <;> rfl
@[simp] theorem acceptCommand_sliceLen (i : Instr) (s : State) : (acceptCommand i s).sliceLen = s.sliceLen := by unfold acceptCommand; split <;> rfl
@[simp] theorem acceptCommand_dout (i : Instr) (s : State) : (acceptCommand i s).dout = s.dout := by unfold acceptCommand; split <;> rfl
@[simp] theorem acceptCommand_doutLen (i : Instr) (s : State) : (acceptCommand i s).doutLen = s.doutLen := by unfold acceptCommand; split <;> rfl
@[simp] theorem acceptCommand_busy (i : Instr) (s : State) : (acceptCommand i s).busy = true := by unfold acceptCommand; split <;> rfl
@[simp] theorem acceptCommand_pending (i : Instr) (s : State) : (acceptCommand i s).pending = some i := by unfold acceptCommand; split <;> rfl
@[simp] theorem acceptCommand_turns (i : Instr) (s : State) : (acceptCommand i s).turns = s.turns := by unfold acceptCommand; split <;> rfl
@[simp] theorem acceptCommand_reads (i : Instr) (s : State) : (acceptCommand i s).reads = s.reads := by unfold acceptCommand; split <;> rfl
@[simp] theorem acceptCommand_errLog (i : Instr) (s : State) : (acceptCommand i s).errLog = s.errLog := by unfold acceptCommand; split <;> rfl

@[simp] theorem performInit_h (s : State) : (performInit s).h = iv := by simp only [performInit]
@[simp] theorem performInit_phase (s : State) : (performInit s).phase = .fresh := by simp only [performInit]
@[simp] theorem performInit_block (s : State) : (performInit s).block = s.block := by simp only [performInit]
@[simp] theorem performInit_totalSize (s : State) : (performInit s).totalSize = s.totalSize := by simp only [performInit]
@[simp] theorem performInit_sliceOffset (s : State) : (performInit s).sliceOffset = s.sliceOffset := by simp only [performInit]
@[simp] theorem performInit_sliceLen (s : State) : (performInit s).sliceLen = s.sliceLen := by simp only [performInit]
@[simp] theorem performInit_dout (s : State) : (performInit s).dout = s.dout.store 0 (List.replicate 64 0) := by simp only [performInit]
@[simp] theorem performInit_doutLen (s : State) : (performInit s).doutLen = 0 := by simp only [performInit]
@[simp] theorem performInit_busy (s : State) : (performInit s).busy = false := by simp only [performInit]
@[simp] theorem performInit_pending (s : State) : (performInit s).pending = s.pending := by simp only [performInit]
@[simp] theorem performInit_err (s : State) : (performInit s).err = s.err := by simp only [performInit]
@[simp] theorem performInit_errMulti (s : State) : (performInit s).errMulti = s.errMulti := by simp only [performInit]
@[simp] theorem performInit_errInfo (s : State) : (performInit s).errInfo = s.errInfo := by simp only [performInit]
@[simp] theorem performInit_turns (s : State) : (performInit s).turns = s.turns := by simp only [performInit]
@[simp] theorem performInit_reads (s : State) : (performInit s).reads = s.reads := by simp only [performInit]
@[simp] theorem performInit_errLog (s : State) : (performInit s).errLog = s.errLog := by simp only [performInit]

@[simp] theorem performCompressBlock_h (s : State) : (performCompressBlock s).h = compress s.h (blockOperand s) := by simp only [performCompressBlock]
@[simp] theorem performCompressBlock_phase (s : State) : (performCompressBlock s).phase = .accum := by simp only [performCompressBlock]
@[simp] theorem performCompressBlock_block (s : State) : (performCompressBlock s).block = s.block := by simp only [performCompressBlock]
@[simp] theorem performCompressBlock_totalSize (s : State) : (performCompressBlock s).totalSize = s.totalSize := by simp only [performCompressBlock]
@[simp] theorem performCompressBlock_sliceOffset (s : State) : (performCompressBlock s).sliceOffset = s.sliceOffset := by simp only [performCompressBlock]
@[simp] theorem performCompressBlock_sliceLen (s : State) : (performCompressBlock s).sliceLen = s.sliceLen := by simp only [performCompressBlock]
@[simp] theorem performCompressBlock_dout (s : State) : (performCompressBlock s).dout = s.dout := by simp only [performCompressBlock]
@[simp] theorem performCompressBlock_doutLen (s : State) : (performCompressBlock s).doutLen = s.doutLen := by simp only [performCompressBlock]
@[simp] theorem performCompressBlock_busy (s : State) : (performCompressBlock s).busy = false := by simp only [performCompressBlock]
@[simp] theorem performCompressBlock_pending (s : State) : (performCompressBlock s).pending = s.pending := by simp only [performCompressBlock]
@[simp] theorem performCompressBlock_err (s : State) : (performCompressBlock s).err = s.err := by simp only [performCompressBlock]
@[simp] theorem performCompressBlock_errMulti (s : State) : (performCompressBlock s).errMulti = s.errMulti := by simp only [performCompressBlock]
@[simp] theorem performCompressBlock_errInfo (s : State) : (performCompressBlock s).errInfo = s.errInfo := by simp only [performCompressBlock]
@[simp] theorem performCompressBlock_turns (s : State) : (performCompressBlock s).turns = s.turns := by simp only [performCompressBlock]
@[simp] theorem performCompressBlock_reads (s : State) : (performCompressBlock s).reads = s.reads := by simp only [performCompressBlock]
@[simp] theorem performCompressBlock_errLog (s : State) : (performCompressBlock s).errLog = s.errLog := by simp only [performCompressBlock]

@[simp] theorem performFinalize_h (s : State) : (performFinalize s).h = compressAll s.h (padBlocks Config.lenFieldMode (tailOperand s) s.totalSize) := by simp only [performFinalize]
@[simp] theorem performFinalize_phase (s : State) : (performFinalize s).phase = .final := by simp only [performFinalize]
@[simp] theorem performFinalize_block (s : State) : (performFinalize s).block = s.block := by simp only [performFinalize]
@[simp] theorem performFinalize_totalSize (s : State) : (performFinalize s).totalSize = s.totalSize := by simp only [performFinalize]
@[simp] theorem performFinalize_sliceOffset (s : State) : (performFinalize s).sliceOffset = s.sliceOffset := by simp only [performFinalize]
@[simp] theorem performFinalize_sliceLen (s : State) : (performFinalize s).sliceLen = s.sliceLen := by simp only [performFinalize]
@[simp] theorem performFinalize_dout (s : State) : (performFinalize s).dout = s.dout := by simp only [performFinalize]
@[simp] theorem performFinalize_doutLen (s : State) : (performFinalize s).doutLen = s.doutLen := by simp only [performFinalize]
@[simp] theorem performFinalize_busy (s : State) : (performFinalize s).busy = false := by simp only [performFinalize]
@[simp] theorem performFinalize_pending (s : State) : (performFinalize s).pending = s.pending := by simp only [performFinalize]
@[simp] theorem performFinalize_err (s : State) : (performFinalize s).err = s.err := by simp only [performFinalize]
@[simp] theorem performFinalize_errMulti (s : State) : (performFinalize s).errMulti = s.errMulti := by simp only [performFinalize]
@[simp] theorem performFinalize_errInfo (s : State) : (performFinalize s).errInfo = s.errInfo := by simp only [performFinalize]
@[simp] theorem performFinalize_turns (s : State) : (performFinalize s).turns = s.turns := by simp only [performFinalize]
@[simp] theorem performFinalize_reads (s : State) : (performFinalize s).reads = s.reads := by simp only [performFinalize]
@[simp] theorem performFinalize_errLog (s : State) : (performFinalize s).errLog = s.errLog := by simp only [performFinalize]

@[simp] theorem performGetDigestSlice_h (s : State) : (performGetDigestSlice s).h = s.h := by simp only [performGetDigestSlice]
@[simp] theorem performGetDigestSlice_phase (s : State) : (performGetDigestSlice s).phase = s.phase := by simp only [performGetDigestSlice]
@[simp] theorem performGetDigestSlice_block (s : State) : (performGetDigestSlice s).block = s.block := by simp only [performGetDigestSlice]
@[simp] theorem performGetDigestSlice_totalSize (s : State) : (performGetDigestSlice s).totalSize = s.totalSize := by simp only [performGetDigestSlice]
@[simp] theorem performGetDigestSlice_sliceOffset (s : State) : (performGetDigestSlice s).sliceOffset = s.sliceOffset := by simp only [performGetDigestSlice]
@[simp] theorem performGetDigestSlice_sliceLen (s : State) : (performGetDigestSlice s).sliceLen = s.sliceLen := by simp only [performGetDigestSlice]
@[simp] theorem performGetDigestSlice_dout (s : State) : (performGetDigestSlice s).dout = s.dout.store 0 (sliceBytes s.h s.sliceOffset.toNat s.sliceLen.toNat) := by simp only [performGetDigestSlice]
@[simp] theorem performGetDigestSlice_doutLen (s : State) : (performGetDigestSlice s).doutLen = s.sliceLen := by simp only [performGetDigestSlice]
@[simp] theorem performGetDigestSlice_busy (s : State) : (performGetDigestSlice s).busy = false := by simp only [performGetDigestSlice]
@[simp] theorem performGetDigestSlice_pending (s : State) : (performGetDigestSlice s).pending = s.pending := by simp only [performGetDigestSlice]
@[simp] theorem performGetDigestSlice_err (s : State) : (performGetDigestSlice s).err = s.err := by simp only [performGetDigestSlice]
@[simp] theorem performGetDigestSlice_errMulti (s : State) : (performGetDigestSlice s).errMulti = s.errMulti := by simp only [performGetDigestSlice]
@[simp] theorem performGetDigestSlice_errInfo (s : State) : (performGetDigestSlice s).errInfo = s.errInfo := by simp only [performGetDigestSlice]
@[simp] theorem performGetDigestSlice_turns (s : State) : (performGetDigestSlice s).turns = s.turns := by simp only [performGetDigestSlice]
@[simp] theorem performGetDigestSlice_reads (s : State) : (performGetDigestSlice s).reads = s.reads := by simp only [performGetDigestSlice]
@[simp] theorem performGetDigestSlice_errLog (s : State) : (performGetDigestSlice s).errLog = s.errLog := by simp only [performGetDigestSlice]

@[simp] theorem resetEngine_h (s : State) : (resetEngine s).h = State.reset.h := rfl
@[simp] theorem resetEngine_phase (s : State) : (resetEngine s).phase = State.reset.phase := rfl
@[simp] theorem resetEngine_block (s : State) : (resetEngine s).block = State.reset.block := rfl
@[simp] theorem resetEngine_totalSize (s : State) : (resetEngine s).totalSize = State.reset.totalSize := rfl
@[simp] theorem resetEngine_sliceOffset (s : State) : (resetEngine s).sliceOffset = State.reset.sliceOffset := rfl
@[simp] theorem resetEngine_sliceLen (s : State) : (resetEngine s).sliceLen = State.reset.sliceLen := rfl
@[simp] theorem resetEngine_dout (s : State) : (resetEngine s).dout = State.reset.dout := rfl
@[simp] theorem resetEngine_doutLen (s : State) : (resetEngine s).doutLen = State.reset.doutLen := rfl
@[simp] theorem resetEngine_busy (s : State) : (resetEngine s).busy = State.reset.busy := rfl
@[simp] theorem resetEngine_pending (s : State) : (resetEngine s).pending = State.reset.pending := rfl
@[simp] theorem resetEngine_err (s : State) : (resetEngine s).err = State.reset.err := rfl
@[simp] theorem resetEngine_errMulti (s : State) : (resetEngine s).errMulti = State.reset.errMulti := rfl
@[simp] theorem resetEngine_errInfo (s : State) : (resetEngine s).errInfo = State.reset.errInfo := rfl
@[simp] theorem resetEngine_turns (s : State) : (resetEngine s).turns = s.turns := rfl
@[simp] theorem resetEngine_reads (s : State) : (resetEngine s).reads = s.reads := rfl
@[simp] theorem resetEngine_errLog (s : State) : (resetEngine s).errLog = s.errLog := rfl

@[simp] theorem placeCommandWord_h (w : Word32) (s : State) : (placeCommandWord w s).h = s.h := rfl
@[simp] theorem placeCommandWord_phase (w : Word32) (s : State) : (placeCommandWord w s).phase = s.phase := rfl
@[simp] theorem placeCommandWord_block (w : Word32) (s : State) : (placeCommandWord w s).block = s.block := rfl
@[simp] theorem placeCommandWord_totalSize (w : Word32) (s : State) : (placeCommandWord w s).totalSize = s.totalSize := rfl
@[simp] theorem placeCommandWord_sliceOffset (w : Word32) (s : State) : (placeCommandWord w s).sliceOffset = s.sliceOffset := rfl
@[simp] theorem placeCommandWord_sliceLen (w : Word32) (s : State) : (placeCommandWord w s).sliceLen = s.sliceLen := rfl
@[simp] theorem placeCommandWord_dout (w : Word32) (s : State) : (placeCommandWord w s).dout = s.dout := rfl
@[simp] theorem placeCommandWord_doutLen (w : Word32) (s : State) : (placeCommandWord w s).doutLen = s.doutLen := rfl
@[simp] theorem placeCommandWord_busy (w : Word32) (s : State) : (placeCommandWord w s).busy = false := rfl
@[simp] theorem placeCommandWord_pending (w : Word32) (s : State) : (placeCommandWord w s).pending = s.pending := rfl
@[simp] theorem placeCommandWord_err (w : Word32) (s : State) : (placeCommandWord w s).err = s.err := rfl
@[simp] theorem placeCommandWord_errMulti (w : Word32) (s : State) : (placeCommandWord w s).errMulti = s.errMulti := rfl
@[simp] theorem placeCommandWord_errInfo (w : Word32) (s : State) : (placeCommandWord w s).errInfo = s.errInfo := rfl
@[simp] theorem placeCommandWord_turns (w : Word32) (s : State) : (placeCommandWord w s).turns = .host (.write .w32 0x090 w) :: s.turns := rfl
@[simp] theorem placeCommandWord_reads (w : Word32) (s : State) : (placeCommandWord w s).reads = s.reads := rfl
@[simp] theorem placeCommandWord_errLog (w : Word32) (s : State) : (placeCommandWord w s).errLog = s.errLog := rfl

/-- The first usage error is recorded with its code and info word (spec/60_exceptions.md R204). -/
theorem raiseUsageError_first (e : UsageError) (w : Word32) (s : State) (h : s.err = none) :
    raiseUsageError e w s = { s with err := some e, errInfo := w, errLog := (e, w) :: s.errLog } := by
  unfold raiseUsageError; rw [h]

/-- A later usage error only sets ERR_MULTI (spec/60_exceptions.md R204). -/
theorem raiseUsageError_later (e d : UsageError) (w : Word32) (s : State) (h : s.err = some d) :
    raiseUsageError e w s = { s with errMulti := true, errLog := (e, w) :: s.errLog } := by
  unfold raiseUsageError; rw [h]

/-- What the error record shows after a first error (spec/60_exceptions.md R204). -/
theorem raiseUsageError_shows_first (e : UsageError) (w : Word32) (s : State) (h : s.err = none) :
    (raiseUsageError e w s).err = some e ∧ (raiseUsageError e w s).errInfo = w ∧ (raiseUsageError e w s).errMulti = s.errMulti := by
  rw [raiseUsageError_first e w s h]; exact ⟨rfl, rfl, rfl⟩

/-- What the error record shows after a later error (spec/60_exceptions.md R204). -/
theorem raiseUsageError_shows_later (e d : UsageError) (w : Word32) (s : State) (h : s.err = some d) :
    (raiseUsageError e w s).err = some d ∧ (raiseUsageError e w s).errInfo = s.errInfo ∧ (raiseUsageError e w s).errMulti = true := by
  rw [raiseUsageError_later e d w s h]; exact ⟨h, rfl, rfl⟩

/-- Accepting INIT clears the error record (spec/60_exceptions.md R206). -/
theorem acceptCommand_init (s : State) :
    acceptCommand .init s = { clearErrors s with busy := true, pending := some .init } := rfl

/-- Accepting another command leaves the error record alone (spec/60_exceptions.md R206). -/
theorem acceptCommand_other (i : Instr) (s : State) (h : i ≠ .init) :
    acceptCommand i s = { s with busy := true, pending := some i } := by
  unfold acceptCommand; rw [if_neg h]

/-- After a usage error some error is recorded. -/
theorem raiseUsageError_err_ne_none (e : UsageError) (w : Word32) (s : State) : (raiseUsageError e w s).err ≠ none := by
  unfold raiseUsageError; split <;> simp_all

end Sys2Proof.Machine
end

