-- ==== Sys2Proof/Laws/Exec.lean ====
section
/-!
SUPPORT. What `exec`, the bus and a step can do, said once: the two parts of each command, and inversion lemmas for every shared operation.
-/
namespace Sys2Proof.Machine

/-- With BUSY = 0 `exec` is the issue part of the command (spec/70_reset_and_hazards.md R233). -/
theorem exec_idle (i : Instr) (s : State) (h : s.busy = false) : exec i s = .next (issueCommand i s) := by
  cases i <;> simp [exec, execInit, execCompressBlock, execFinalize, execGetDigestSlice, h]

/-- With BUSY = 1 `exec` of INIT is its perform part (spec/41_init.md R121). -/
theorem exec_init_busy (s : State) (h : s.busy = true) : exec .init s = .next (performInit s) := by
  simp [exec, execInit, h]

/-- With BUSY = 1 `exec` of COMPRESS_BLOCK is its perform part (spec/42_compress.md R137). -/
theorem exec_compressBlock_busy (s : State) (h : s.busy = true) :
    exec .compressBlock s = .next (performCompressBlock s) := by
  simp [exec, execCompressBlock, h]

/-- With BUSY = 1 `exec` of FINALIZE is its perform part (spec/43_finalize.md R156). -/
theorem exec_finalize_busy (s : State) (h : s.busy = true) : exec .finalize s = .next (performFinalize s) := by
  simp [exec, execFinalize, h]

/-- With BUSY = 1 `exec` of GET_DIGEST_SLICE is its perform part, for operands in range (spec/44_digest.md R173). -/
theorem exec_getDigestSlice_busy (s : State) (h : s.busy = true) (hr : sliceInRange s = true) :
    exec .getDigestSlice s = .next (performGetDigestSlice s) := by
  simp [exec, execGetDigestSlice, h, hr]

/-- Out of range, performing GET_DIGEST_SLICE is a fault (log entry 11). -/
theorem exec_getDigestSlice_outOfRange (s : State) (h : s.busy = true) (hr : sliceInRange s = false) :
    exec .getDigestSlice s = .fault .sliceOutOfRange := by
  simp [exec, execGetDigestSlice, h, hr]

/-- A performed command, by cases: which part ran and what it left. -/
theorem exec_busy_cases {i : Instr} {s t : State} (h : s.busy = true) (he : exec i s = .next t) :
    (i = .init ∧ t = performInit s) ∨ (i = .compressBlock ∧ t = performCompressBlock s) ∨
      (i = .finalize ∧ t = performFinalize s) ∨
      (i = .getDigestSlice ∧ sliceInRange s = true ∧ t = performGetDigestSlice s) := by
  cases i with
  | init => rw [exec_init_busy s h] at he; injection he with he; exact .inl ⟨rfl, he.symm⟩
  | compressBlock => rw [exec_compressBlock_busy s h] at he; injection he with he; exact .inr (.inl ⟨rfl, he.symm⟩)
  | finalize => rw [exec_finalize_busy s h] at he; injection he with he; exact .inr (.inr (.inl ⟨rfl, he.symm⟩))
  | getDigestSlice =>
    by_cases hr : sliceInRange s = true
    · rw [exec_getDigestSlice_busy s h hr] at he; injection he with he; exact .inr (.inr (.inr ⟨rfl, hr, he.symm⟩))
    · rw [exec_getDigestSlice_outOfRange s h (by simpa using hr)] at he; cases he

/-- An issued command is rejected with the error of the check, or accepted (spec/70_reset_and_hazards.md R233). -/
theorem issueCommand_cases (i : Instr) (s : State) :
    (∃ e, checkCommand i s = some e ∧ issueCommand i s = raiseUsageError e (encode i) s) ∨
      (checkCommand i s = none ∧ issueCommand i s = acceptCommand i s) := by
  unfold issueCommand
  cases h : checkCommand i s with
  | none => exact .inr ⟨rfl, rfl⟩
  | some e => exact .inl ⟨e, rfl, rfl⟩

/-- The check of a command reads PHASE and the slice operands, nothing else. -/
theorem checkCommand_congr (i : Instr) {s t : State} (hp : t.phase = s.phase) (ho : t.sliceOffset = s.sliceOffset)
    (hl : t.sliceLen = s.sliceLen) : checkCommand i t = checkCommand i s := by
  unfold checkCommand sliceInRange; rw [hp, ho, hl]

/-- INIT is accepted in every phase (spec/41_init.md R122). -/
@[simp] theorem checkCommand_init (s : State) : checkCommand .init s = none := by
  simp [checkCommand]

/-- Where the check accepts a command other than INIT: the phase, and for a slice the range (spec/10_state.md R23; spec/44_digest.md
R172). -/
theorem checkCommand_accepts {i : Instr} {s : State} (h : checkCommand i s = none) :
    i = .init ∨ ((i = .compressBlock ∨ i = .finalize) ∧ (s.phase = .fresh ∨ s.phase = .accum)) ∨
      (i = .getDigestSlice ∧ s.phase = .final ∧ sliceInRange s = true) := by
  cases i <;> cases hp : s.phase <;> simp_all [checkCommand]

/-- Decoding accepts a word exactly as the encoding of the command it gives. -/
theorem decodeWord_command {w : Word32} {i : Instr} (h : decodeWord w = .command i) :
    reservedField w = 0 ∧ opcodeField w = opcodeOf i := by
  unfold decodeWord at h
  split at h
  · cases h
  · next hr =>
    refine ⟨by simpa using hr, ?_⟩
    repeat' split at h
    all_goals first | cases h; assumption | cases h

/-- A write to CMD with BUSY = 0, by cases (spec/70_reset_and_hazards.md R233). -/
theorem writeCommand_cases {w : Word32} {s : State} (hb : s.busy = false) :
    (∃ i, decodeWord w = .command i ∧ writeCommand w s = .next (issueCommand i s)) ∨
      (∃ why, decodeWord w = .illegal why ∧ writeCommand w s = .next (raiseUsageError .illegalCmd w s)) := by
  unfold writeCommand
  cases h : decodeWord w with
  | command i => exact .inl ⟨i, rfl, exec_idle i s hb⟩
  | illegal why => exact .inr ⟨why, rfl, rfl⟩

/-- A host write of an existing access, by cases: what it can do to the state (spec/20_memory.md R53, R58). -/
theorem windowWrite_cases {off : Nat} {v : Word32} {s t : State} (h : windowWrite off v s = .next t) :
    (s.busy = true ∧ t = raiseUsageError .busyWrite (BitVec.ofNat 32 off) s) ∨
    (s.busy = false ∧
      ((off ≤ 0x07C ∧ t = { s with block := s.block.store off (be32bytes v) }) ∨
        (off = 0x080 ∧ t = { s with totalSize := v ++ s.totalSize.extractLsb' 0 32 }) ∨
        (off = 0x084 ∧ t = { s with totalSize := s.totalSize.extractLsb' 32 32 ++ v }) ∨
        (off = 0x088 ∧ t = { s with sliceOffset := v }) ∨
        (off = 0x08C ∧ t = { s with sliceLen := v }) ∨
        (off = 0x090 ∧ ∃ i, decodeWord v = .command i ∧ t = issueCommand i s) ∨
        (off = 0x090 ∧ (∃ why, decodeWord v = .illegal why) ∧ t = raiseUsageError .illegalCmd v s) ∨
        ((0x07C < off ∧ off < 0x080 ∨ 0x080 < off ∧ off < 0x084 ∨ 0x084 < off ∧ off < 0x088 ∨ 0x088 < off ∧ off < 0x08C ∨
          0x08C < off ∧ off < 0x090 ∨ 0x090 < off) ∧ t = s))) := by
  unfold windowWrite at h
  cases hb : s.busy with
  | true => simp only [hb, if_true] at h; injection h with h; exact .inl ⟨rfl, h.symm⟩
  | false =>
    simp only [hb, Bool.false_eq_true, if_false] at h
    refine .inr ⟨rfl, ?_⟩
    split at h
    · next h1 => injection h with h; exact .inl ⟨h1, h.symm⟩
    split at h
    · next h1 => injection h with h; exact .inr (.inl ⟨h1, h.symm⟩)
    split at h
    · next h1 => injection h with h; exact .inr (.inr (.inl ⟨h1, h.symm⟩))
    split at h
    · next h1 => injection h with h; exact .inr (.inr (.inr (.inl ⟨h1, h.symm⟩)))
    split at h
    · next h1 => injection h with h; exact .inr (.inr (.inr (.inr (.inl ⟨h1, h.symm⟩))))
    split at h
    · next h1 =>
      rcases writeCommand_cases (w := v) hb with ⟨i, hd, hw⟩ | ⟨why, hd, hw⟩
      · rw [hw] at h; injection h with h
        exact .inr (.inr (.inr (.inr (.inr (.inl ⟨h1, i, hd, h.symm⟩)))))
      · rw [hw] at h; injection h with h
        exact .inr (.inr (.inr (.inr (.inr (.inr (.inl ⟨h1, ⟨why, hd⟩, h.symm⟩))))))
    · injection h with h
      exact .inr (.inr (.inr (.inr (.inr (.inr (.inr ⟨by omega, h.symm⟩))))))

/-- A read that exists adds the word at its offset to what the host has read (spec/20_memory.md R52). -/
theorem busAccess_read (off : Nat) (s : State) (h4 : off % 4 = 0) (hle : off ≤ 0x0FC) :
    busAccess (.read .w32 off) s = .next { s with reads := windowWord off s :: s.reads } := by
  simp [busAccess, accessExists, h4, hle]

/-- A write that exists writes the window (spec/20_memory.md R53). -/
theorem busAccess_write (off : Nat) (v : Word32) (s : State) (h4 : off % 4 = 0) (hle : off ≤ 0x0FC) :
    busAccess (.write .w32 off v) s = windowWrite off v s := by
  simp [busAccess, accessExists, h4, hle]

/-- Where an access does not exist (spec/20_memory.md R51). -/
theorem accessExists_eq_false {width : Width} {off : Nat} (h : width ≠ .w32 ∨ off % 4 ≠ 0 ∨ 0x0FC < off) :
    accessExists width off = false := by
  simp only [accessExists, Bool.and_eq_false_iff, beq_eq_false_iff_ne, decide_eq_false_iff_not]
  rcases h with h | h | h
  · exact .inl (.inl h)
  · exact .inl (.inr h)
  · exact .inr (by omega)

/-- A read that does not exist is a bus error (spec/20_memory.md R51). -/
theorem busAccess_read_missing {width : Width} {off : Nat} (s : State) (h : accessExists width off = false) :
    busAccess (.read width off) s = .fault .busError := by
  simp [busAccess, h]

/-- A write that does not exist is a bus error (spec/20_memory.md R51). -/
theorem busAccess_write_missing {width : Width} {off : Nat} (v : Word32) (s : State) (h : accessExists width off = false) :
    busAccess (.write width off v) s = .fault .busError := by
  simp [busAccess, h]

/-- A host access that is carried out exists, and is a read or a write of the window (spec/20_memory.md R51). -/
theorem busAccess_cases {a : Access} {s t : State} (h : busAccess a s = .next t) :
    (∃ off, a = .read .w32 off ∧ accessExists .w32 off = true ∧ t = { s with reads := windowWord off s :: s.reads }) ∨
      (∃ off v, a = .write .w32 off v ∧ accessExists .w32 off = true ∧ windowWrite off v s = .next t) := by
  cases a with
  | read width off =>
    simp only [busAccess] at h
    split at h
    · next he =>
      have hw : width = .w32 := by simp [accessExists] at he; exact he.1.1
      subst hw; injection h with h; exact .inl ⟨off, rfl, he, h.symm⟩
    · cases h
  | write width off v =>
    simp only [busAccess] at h
    split at h
    · next he =>
      have hw : width = .w32 := by simp [accessExists] at he; exact he.1.1
      subst hw; exact .inr ⟨off, v, rfl, he, h⟩
    · cases h

/-- With BUSY = 0 the engine's turn changes nothing (spec/60_exceptions.md R216). -/
@[simp] theorem engineStep_idle (s : State) (h : s.busy = false) : engineStep s = .next s := by
  simp [engineStep, h]

/-- With BUSY = 1 the engine performs the pending command (spec/70_reset_and_hazards.md R234). -/
theorem engineStep_busy (s : State) (i : Instr) (h : s.busy = true) (hp : s.pending = some i) : engineStep s = exec i s := by
  simp [engineStep, h, hp]

/-- What the engine's step can do when it answers a next state. -/
theorem engineStep_cases {s t : State} (h : engineStep s = .next t) :
    (s.busy = false ∧ t = s) ∨ (s.busy = true ∧ ∃ i, s.pending = some i ∧ exec i s = .next t) := by
  cases hb : s.busy with
  | false => rw [engineStep_idle s hb] at h; injection h with h; exact .inl ⟨rfl, h.symm⟩
  | true =>
    cases hp : s.pending with
    | none => simp [engineStep, hb, hp] at h
    | some i => rw [engineStep_busy s i hb hp] at h; exact .inr ⟨rfl, i, rfl, h⟩

/-- With no turn left, a step is the engine's. -/
theorem step_of_no_turns (s : State) (h : s.turns = []) : step s = engineStep s := by
  simp [step, h]

/-- Otherwise a step takes the first turn off the list. -/
theorem step_of_turn (s : State) (u : Turn) (rest : List Turn) (h : s.turns = u :: rest) :
    step s = takeTurn u { s with turns := rest } := by
  simp [step, h]

/-- What a step can be: the engine's step, a host access, or reset. -/
theorem step_cases {s t : State} (h : step s = .next t) :
    (s.turns = [] ∧ engineStep s = .next t) ∨
      (∃ rest, s.turns = .engine :: rest ∧ engineStep { s with turns := rest } = .next t) ∨
      (∃ a rest, s.turns = .host a :: rest ∧ busAccess a { s with turns := rest } = .next t) ∨
      (∃ rest, s.turns = .reset :: rest ∧ t = resetEngine { s with turns := rest }) := by
  cases hs : s.turns with
  | nil => rw [step_of_no_turns s hs] at h; exact .inl ⟨rfl, h⟩
  | cons u rest =>
    rw [step_of_turn s u rest hs] at h
    cases u with
    | host a => exact .inr (.inr (.inl ⟨a, rest, rfl, h⟩))
    | engine => exact .inr (.inl ⟨rest, rfl, h⟩)
    | reset => simp only [takeTurn] at h; injection h with h; exact .inr (.inr (.inr ⟨rest, rfl, h.symm⟩))

end Sys2Proof.Machine
end

