-- ==== Sys2Proof/Laws/PerInstr.lean ====
section
/-!
SUPPORT. Statements made per instruction. Family `CommandWord`: the word a command is encoded as is a legal command word, of the 32 bits
the opcode table gives it, that no other command shares (spec/30_encoding.md R81, R82).
-/
namespace Sys2Proof.Laws.CommandWord

/-- The encoding of `i` has RSVD = 0 and an assigned opcode, and tells `i` from every other command. -/
def Statement (i : Instr) : Prop :=
  commandWordWellFormed (encode i) = true ∧ ∀ j : Instr, encode j = encode i → j = i

theorem init : Statement .init := ⟨by decide, fun j => by cases j <;> decide⟩

theorem compressBlock : Statement .compressBlock := ⟨by decide, fun j => by cases j <;> decide⟩

theorem finalize : Statement .finalize := ⟨by decide, fun j => by cases j <;> decide⟩

theorem getDigestSlice : Statement .getDigestSlice := ⟨by decide, fun j => by cases j <;> decide⟩

end Sys2Proof.Laws.CommandWord
end

