-- ==== Sys2Proof/Laws/Window.lean ====
section
/-!
SUPPORT. What a read returns, offset by offset (spec/20_memory.md R52), so that no proof splits the whole map.
-/
namespace Sys2Proof.Machine

/-- Four bytes of a buffer, packed (spec/20_memory.md R55). -/
theorem be32_load (m : Memory) (a : Nat) :
    be32 (m.load a 4) 0 = m.read a ++ m.read (a + 1) ++ m.read (a + 2) ++ m.read (a + 3) := by
  simp [be32, byteAt, Memory.load]

/-- A word just stored in BLOCK packs back to itself (spec/20_memory.md R53, R55). -/
theorem be32_load_store {m : Memory} {a : Nat} (v : Word32) (hw : m.wf 128 = true) (h : a + 4 ≤ 128) :
    be32 ((m.store a (be32bytes v)).load a 4) 0 = v := by
  have hb : ∀ k, k < 4 → (m.store a (be32bytes v)).read (a + k) = (be32bytes v).getD k 0 := fun k hk =>
    Memory.read_store_inside hw (by rw [be32bytes_length]; exact h) (by rw [be32bytes_length]; exact hk)
  have h0 := hb 0 (by omega)
  rw [Nat.add_zero] at h0
  rw [be32_load, h0, hb 1 (by omega), hb 2 (by omega), hb 3 (by omega)]
  exact be32_be32bytes v

/-- The offsets of BLOCK_W. -/
theorem windowWord_block {off : Nat} (s : State) (h : off ≤ 0x07C) : windowWord off s = be32 (s.block.load off 4) 0 := by
  unfold windowWord; rw [if_pos h]

theorem windowWord_totalSizeHi (s : State) : windowWord 0x080 s = s.totalSize.extractLsb' 32 32 := rfl

theorem windowWord_totalSizeLo (s : State) : windowWord 0x084 s = s.totalSize.extractLsb' 0 32 := rfl

theorem windowWord_sliceOffset (s : State) : windowWord 0x088 s = s.sliceOffset := rfl

theorem windowWord_sliceLen (s : State) : windowWord 0x08C s = s.sliceLen := rfl

theorem windowWord_cmd (s : State) : windowWord 0x090 s = 0 := rfl

theorem windowWord_status (s : State) : windowWord 0x094 s = statusWord s := rfl

theorem windowWord_doutLen (s : State) : windowWord 0x098 s = s.doutLen := rfl

theorem windowWord_errInfo (s : State) : windowWord 0x09C s = s.errInfo := rfl

/-- The reserved offsets. -/
theorem windowWord_reserved {off : Nat} (s : State) (h : 0x0A0 ≤ off) (h' : off ≤ 0x0BC) : windowWord off s = 0 := by
  simp (disch := omega) only [windowWord, if_neg, if_pos]

/-- The offsets of DOUT_W. -/
theorem windowWord_dout {off : Nat} (s : State) (h : 0x0C0 ≤ off) :
    windowWord off s = be32 (s.dout.load (off - 0x0C0) 4) 0 := by
  simp (disch := omega) only [windowWord, if_neg]

/-- An aligned offset of the window is one of the map's (spec/20_memory.md R50). -/
theorem windowOffset_cases {off : Nat} (h4 : off % 4 = 0) (hle : off ≤ 0x0FC) :
    off ≤ 0x07C ∨ off = 0x080 ∨ off = 0x084 ∨ off = 0x088 ∨ off = 0x08C ∨ off = 0x090 ∨ off = 0x094 ∨ off = 0x098 ∨ off = 0x09C ∨
      (0x0A0 ≤ off ∧ off ≤ 0x0BC) ∨ 0x0C0 ≤ off := by omega

end Sys2Proof.Machine
end

