-- ==== Sys2Proof/Tests/Slice0.lean ====
section
/-!
SUPPORT. The model's own tests. Expected values are those of spec/: the encoding tables of 30_encoding.md and the vectors of
95_test_vectors.md, named at each test. Then, for every statement with hypotheses, a witness that its hypotheses can be met together.
-/
namespace Sys2Proof.Tests

open Sys2Proof Sys2Proof.Machine

/-! ## Helpers -/

/-- The next state of an outcome, if it is one. -/
def nextOf : Host.Outcome State Fault Refusal → Option State
  | .next s => some s
  | .fault _ => none
  | .refused _ => none

/-- The fault of an outcome, if it is one. -/
def faultOf : Host.Outcome State Fault Refusal → Option Fault
  | .next _ => none
  | .fault r => some r
  | .refused _ => none

/-- The words read at some offsets of the window after an outcome. -/
def wordsAfter (o : Host.Outcome State Fault Refusal) (offs : List Nat) : Option (List Word32) :=
  (nextOf o).map fun t => offs.map fun off => windowWord off t

/-- The chaining value after an outcome. -/
def hAfter (o : Host.Outcome State Fault Refusal) : Option ChainingValue := (nextOf o).map State.h

/-- SHA-512 of the empty message, in words (95_test_vectors.md S1). -/
def emptyDigest : ChainingValue :=
  ⟨0xcf83e1357eefb8bd, 0xf1542850d66d8007, 0xd620e4050b5715dc, 0x83f4a921d36ce9ce,
   0x47d0d13c5d85f2b0, 0xff8318d2877eec2f, 0x63b931bd47417a81, 0xa538327af927da3e⟩

/-- After INIT (spec/41_init.md R121). -/
def fresh : State := { State.reset with h := iv, phase := .fresh }

/-- After FINALIZE of the empty message (95_test_vectors.md V-FIN-1), with slice operands. -/
def finalWith (off len : Word32) : State :=
  { State.reset with h := emptyDigest, phase := .final, sliceOffset := off, sliceLen := len }

/-- The same state with a command accepted. -/
def accepted (i : Instr) (s : State) : State := { s with busy := true, pending := some i }

/-- The same state with turns to come. -/
def withTurns (us : List Turn) (s : State) : State := { s with turns := us }

/-- The turn of a 32-bit host write. -/
def wr (off : Nat) (v : Word32) : Turn := .host (.write .w32 off v)

/-- The turn of a 32-bit host read. -/
def rd (off : Nat) : Turn := .host (.read .w32 off)

/-! ## Well-formedness: one ill-formed word for each check (30_encoding.md R81, R84) -/

theorem test_wellFormed_refuses_reserved_bit : reservedBitsClear 0x00000011 = false := by decide
theorem test_wellFormed_refuses_top_reserved_bit : commandWordWellFormed 0x80000001 = false := by decide
theorem test_wellFormed_refuses_zero_word : opcodeAssigned 0x00000000 = false := by decide
theorem test_wellFormed_refuses_opcode_five : opcodeAssigned 0x00000005 = false := by decide
theorem test_wellFormed_accepts_commands :
    [.init, .compressBlock, .finalize, .getDigestSlice].all (fun i => i.wellFormed && commandWordWellFormed (encode i)) = true := by
  decide

/-! ## Decoding, from the fields of 30_encoding.md R81 and R82 written out bit by bit: RSVD 31:4, then OPCODE 3:0 -/

theorem test_decode_init : decodeWord (0b0000000000000000000000000000#28 ++ 0b0001#4) = .command .init := by decide
theorem test_decode_compressBlock :
    decodeWord (0b0000000000000000000000000000#28 ++ 0b0010#4) = .command .compressBlock := by decide
theorem test_decode_finalize : decodeWord (0b0000000000000000000000000000#28 ++ 0b0011#4) = .command .finalize := by decide
theorem test_decode_getDigestSlice :
    decodeWord (0b0000000000000000000000000000#28 ++ 0b0100#4) = .command .getDigestSlice := by decide
theorem test_encode_full_words :
    [Instr.init, .compressBlock, .finalize, .getDigestSlice].map encode = [0x00000001, 0x00000002, 0x00000003, 0x00000004] := by decide
theorem test_decodeTableWord_rows :
    [1, 2, 3, 4, 5, 17].map (decodeTableWord 32) =
      [some .init, some .compressBlock, some .finalize, some .getDigestSlice, none, none] := by decide
theorem test_withFetchWord_runs_first_after_reset :
    wordsAfter (step (State.reset.withFetchWord 32 1)) [0x094] = some [0x00000001] := by decide

/-! ## The window (95_test_vectors.md V-BUS) -/

/-- V-BUS-2. -/
theorem test_block_word_packs_big_endian :
    (nextOf (step (withTurns [wr 0x000 0x61626300] State.reset))).map (fun t => (t.block, windowWord 0x000 t)) =
      some ([(0, 0x61), (1, 0x62), (2, 0x63)], 0x61626300) := by decide

/-- V-BUS-5, after V-BUS-4. -/
theorem test_total_size_low_half_does_not_carry :
    (nextOf (step (withTurns [wr 0x084 0xFFFFFFFF] { State.reset with totalSize := 0x0000000100000002 }))).map State.totalSize =
      some 0x00000001FFFFFFFF := by decide

/-- V-BUS-9: CMD reads 0 after INIT was written to it. -/
theorem test_cmd_reads_zero : wordsAfter (step (withTurns [wr 0x090 0x00000001] State.reset)) [0x090] = some [0x00000000] := by decide

/-- V-BUS-10. -/
theorem test_bus_errors :
    [Access.write .w8 0x001 0, .read .w16 0x000, .read .w32 0x002, .write .w64 0x000 0].map
        (fun a => faultOf (step (withTurns [.host a] State.reset))) = List.replicate 4 (some .busError) := by decide

/-! ## Datapath tables (95_test_vectors.md V-DP) -/

/-- V-DP: the sum and the XOR of all 80 round constants. -/
theorem test_round_constants_checksums :
    (roundConstants.foldl (· + ·) 0, roundConstants.foldl (· ^^^ ·) 0) = (0x9bde35dffda2dffd, 0xd4b82f4e9d920e3b) := by decide +kernel

/-- V-DP: the four sigma functions on 0x0123456789abcdef. -/
theorem test_sigma_functions :
    [bigSigma0, bigSigma1, smallSigma0, smallSigma1].map (fun f => f 0x0123456789abcdef) =
      [0xb7c57a100c7ec1ab, 0x7703112333475567, 0x6f92c77c6c4f1aa1, 0x70a3460dbbd4317a] := by decide

/-! ## INIT -/

/-- V-INIT-3, at acceptance: the error record is cleared, DOUT_LEN is not. -/
theorem test_init_accepted_in_final_clears_errors :
    wordsAfter (exec .init { finalWith 60 10 with err := some .range, errInfo := 4, doutLen := 8 }) [0x094, 0x09C, 0x098] =
      some [0x00000007, 0x00000000, 8] := by decide

/-- V-INIT-3, after the perform step. -/
theorem test_init_performed :
    (nextOf (exec .init (accepted .init { finalWith 0 4 with dout := [(0, 0xcf), (1, 0x83), (2, 0xe1), (3, 0x35)], doutLen := 4 }))).map
        (fun t => (statusWord t, t.h.h0, t.h.h7, t.dout.length, t.doutLen)) =
      some (0x00000002, 0x6a09e667f3bcc908, 0x5be0cd19137e2179, 0, 0) := by decide

/-! ## COMPRESS_BLOCK -/

/-- V-CMP-10. -/
theorem test_compressBlock_in_uninit_is_notInit :
    wordsAfter (exec .compressBlock State.reset) [0x094, 0x09C] = some [0x00000200, 0x00000002] := by decide

/-- V-CMP-2: the block of 128 zero bytes. -/
theorem test_compressBlock_performed :
    hAfter (exec .compressBlock (accepted .compressBlock fresh)) =
      some ⟨0xcf7881d5774acbe8, 0x533362e0fbc78070, 0x0267639d87460eda, 0x3086cb40e85931b0,
            0x717dc95288a023a3, 0x96bab2c14ce0b5e0, 0x6fc4fe04eae33e0b, 0x91f4d80cbd668bee⟩ := by decide +kernel

/-! ## FINALIZE -/

/-- V-FIN-7: SHA-512("abc"), with BLOCK[3] not zero; R160: STATUS 6. -/
theorem test_finalize_abc :
    (nextOf (exec .finalize (accepted .finalize
        { fresh with block := [(0, 0x61), (1, 0x62), (2, 0x63), (3, 0xFF)], totalSize := 3 }))).map
        (fun t => (statusWord t, t.h.h0, t.h.h7)) =
      some (0x00000006, 0xddaf35a193617aba, 0x2a9ac94fa54ca49f) := by decide +kernel

/-- S6, n = 112: two padding blocks. -/
theorem test_finalize_two_blocks :
    (nextOf (exec .finalize (accepted .finalize
        { fresh with block := (List.range 112).map (fun k => (k, 0x61)), totalSize := 112 }))).map (fun t => (t.h.h0, t.h.h7)) =
      some (0xc01d080efd492776, 0x407c8830604b70ca) := by decide +kernel

/-- V-FIN-9 and V-FIN-10: the length bytes in both modes. -/
theorem test_length_field_modes :
    (lenField .exact 0x2000000000000000, lenField .wrap64 0x2000000000000000, lenField .exact 0xffffffffffffffff,
        lenField .wrap64 0xffffffffffffffff) =
      (0x00000000000000010000000000000000, 0, 0x0000000000000007fffffffffffffff8, 0x0000000000000000fffffffffffffff8) := by decide

/-! ## GET_DIGEST_SLICE -/

/-- V-SLC-6: an unaligned slice. -/
theorem test_slice_performed :
    wordsAfter (exec .getDigestSlice (accepted .getDigestSlice (finalWith 5 13))) [0x0C0, 0x0C4, 0x0C8, 0x0CC, 0x0D0, 0x098, 0x094] =
      some [0xefb8bdf1, 0x542850d6, 0x6d8007d6, 0x20000000, 0x00000000, 13, 0x00000006] := by decide

/-- V-SLC-11 and V-SLC-12: the sum does not wrap at 32 bits. -/
theorem test_slice_range_does_not_wrap :
    (wordsAfter (exec .getDigestSlice (finalWith 0xFFFFFFFF 1)) [0x094, 0x09C],
        wordsAfter (exec .getDigestSlice (finalWith 1 0xFFFFFFFF)) [0x094, 0x09C]) =
      (some [0x00000506, 0x00000004], some [0x00000506, 0x00000004]) := by decide

/-! ## The busy window and reset (95_test_vectors.md V-ERR, V-HAZ) -/

/-- V-ERR-12: BUSY_WRITE wins over ILLEGAL_CMD. -/
theorem test_busy_write_wins :
    wordsAfter (step (withTurns [wr 0x090 0x00000007] (accepted .init State.reset))) [0x094, 0x09C] =
      some [0x00000601, 0x00000090] := by decide

/-- V-ERR-8: the first error is kept. -/
theorem test_second_error_sets_multi :
    wordsAfter (exec .getDigestSlice { State.reset with err := some .notInit, errInfo := 2 }) [0x094, 0x09C] =
      some [0x00001200, 0x00000002] := by decide

/-- V-ERR-2, V-SLC-17, V-CMP-11, V-FIN-14: the codes ILLEGAL_CMD, NOT_FINAL and AFTER_FINAL, and the phases ACCUM and FINAL. -/
theorem test_status_codes :
    [step (withTurns [wr 0x090 0x00000005] State.reset), exec .getDigestSlice { fresh with phase := .accum },
        exec .compressBlock (finalWith 0 64)].map (fun o => wordsAfter o [0x094, 0x09C]) =
      [some [0x00000100, 0x00000005], some [0x00000304, 0x00000004], some [0x00000406, 0x00000002]] := by decide

/-- V-HAZ-2: reset while FINALIZE is pending. -/
theorem test_reset_abandons_finalize :
    (nextOf (step (withTurns [.reset] (accepted .finalize fresh)))).map (fun t => (statusWord t, t.pending)) =
      some (0x00000000, none) := by decide

/-! ## The host's side -/

/-- 30_encoding.md R88: SETSIZE and WAIT as written out there. -/
theorem test_script_expansions :
    (scriptSetSize 0x0000000100000002, scriptWait 7 9) =
      ([plainLine (.wr 0x080 1), plainLine (.wr 0x084 2)],
        [⟨some 7, .rd 0x094 (some 9)⟩, plainLine (.bnz 9 0x00000001 7)]) := by decide

/-- 20_memory.md R50: the engine at base 0x200 sees the access at 0x290, the one at 0x100 does not. -/
theorem test_platform_routes_by_window :
    (match platformStep (.host (.write .w32 0x290 0x00000001)) [⟨0x100, State.reset⟩, ⟨0x200, State.reset⟩] with
      | .next q => q.map fun e => statusWord e.engine
      | .fault _ => []
      | .refused _ => []) = [0x00000000, 0x00000001] := by decide

/-! ## Witnesses: for each statement with hypotheses, a state and operands that meet them together, at the ends of their ranges -/

/-- Is this word illegal, by the words of 30_encoding.md R84? -/
def illegalWord (w : Word32) : Bool :=
  w.extractLsb' 4 28 != 0 || (w.extractLsb' 0 4).toNat == 0 || decide (5 ≤ (w.extractLsb' 0 4).toNat)

theorem witness_DecodeEncodeAgree :
    Instr.wellFormed .getDigestSlice = true ∧ decodeWord 0x00000004 = .command .getDigestSlice ∧
      commandWordWellFormed 0x00000001 = true ∧ commandWordWellFormed 0x00000005 = false := by decide

theorem witness_DecodeSplitsAllWords :
    decodeWord 0x00000004 = .command .getDigestSlice ∧ decodeWord 0x00000005 = .illegal .unassignedOpcode ∧
      decodeWord 0x00000014 = .illegal .reservedBits := by decide

theorem witness_StepRunsIssuedCommand :
    ∃ (s : State) (w : Word32) (i : Instr) (rest : List Turn),
      decodeWord w = .command i ∧ s.turns = .host (.write .w32 0x090 w) :: rest ∧ s.busy = false :=
  ⟨withTurns [wr 0x090 1, .engine] State.reset, 1, .init, [.engine], by decide⟩

theorem witness_StepRunsPendingCommand :
    (∃ (s : State) (i : Instr), s.busy = true ∧ s.pending = some i ∧ s.turns = []) ∧
      ∃ (s : State) (i : Instr) (rest : List Turn), s.busy = true ∧ s.pending = some i ∧ s.turns = .engine :: rest :=
  ⟨⟨accepted .finalize fresh, .finalize, by decide⟩,
    ⟨withTurns [.engine, .reset] (accepted .init State.reset), .init, [.reset], by decide⟩⟩

theorem witness_IdleEngineKeepsItsState :
    (∃ s : State, s.busy = false ∧ s.turns = []) ∧ ∃ (s : State) (rest : List Turn), s.busy = false ∧ s.turns = .engine :: rest :=
  ⟨⟨fresh, by decide⟩, ⟨withTurns [.engine] fresh, [], by decide⟩⟩

/-- One word for each of the three ways to be illegal: 0x10 and 0xFFFFFFF4 set a reserved bit, 0 and 5 and 0xF are no opcode. -/
theorem witness_IllegalWordRaisesIllegalCmd :
    [0x00000010, 0xFFFFFFF4, 0x00000000, 0x00000005, 0x0000000F].all illegalWord = true ∧ illegalWord 0x00000004 = false ∧
      (withTurns [wr 0x090 0] State.reset).turns = .host (.write .w32 0x090 0) :: [] ∧
      (withTurns [wr 0x090 0] State.reset).busy = false := by decide

/-- BUSY = 0 in each phase: the hypothesis of every statement about the issue of a command. -/
theorem witness_issue_in_every_phase :
    State.reset.busy = false ∧ State.reset.phase = .uninit ∧ fresh.busy = false ∧ fresh.phase = .fresh ∧
      { fresh with phase := .accum }.busy = false ∧ { fresh with phase := .accum }.phase = .accum ∧
      (finalWith 64 0).busy = false ∧ (finalWith 64 0).phase = .final := by decide

/-- The range rule at its edge: (64, 0) and (0, 64) are in, (65, 0) and (0, 65) out (44_digest.md R172, R175). -/
theorem witness_slice_range_edge :
    [(64, 0), (0, 64), (65, 0), (0, 65), (0xFFFFFFFF, 1)].map (fun p => sliceInRange (finalWith p.1 p.2)) =
      [true, true, false, false, false] := by decide

theorem witness_FirstErrorIsKept :
    (statusWord State.reset).extractLsb' 8 4 = 0 ∧
      (statusWord { State.reset with err := some .busyWrite }).extractLsb' 8 4 ≠ 0 := by decide

/-- `IssueFrame`, for an accepted and for a rejected command. -/
theorem witness_IssueFrame :
    (∃ t, fresh.busy = false ∧ exec .compressBlock fresh = .next t ∧ t.busy = true) ∧
      ∃ t, State.reset.busy = false ∧ exec .compressBlock State.reset = .next t ∧ t.busy = false :=
  ⟨⟨_, rfl, exec_idle _ _ rfl, by decide⟩, ⟨_, rfl, exec_idle _ _ rfl, by decide⟩⟩

theorem witness_InitPerforms :
    (accepted .init { fresh with dout := [(0, 0xcf), (63, 0x3e)] }).busy = true ∧
      Memory.wf 64 (accepted .init { fresh with dout := [(0, 0xcf), (63, 0x3e)] }).dout = true := by decide

theorem witness_perform_busy : (accepted .compressBlock fresh).busy = true ∧ (accepted .finalize fresh).busy = true := by decide

/-- An empty slice at the end of the digest, and the whole digest. -/
theorem witness_GetDigestSlicePerforms :
    ((accepted .getDigestSlice (finalWith 64 0)).busy = true ∧ Memory.wf 64 (accepted .getDigestSlice (finalWith 64 0)).dout = true ∧
      (accepted .getDigestSlice (finalWith 64 0)).sliceOffset.toNat +
        (accepted .getDigestSlice (finalWith 64 0)).sliceLen.toNat ≤ 64) ∧
    ((accepted .getDigestSlice (finalWith 0 64)).busy = true ∧ Memory.wf 64 (accepted .getDigestSlice (finalWith 0 64)).dout = true ∧
      (accepted .getDigestSlice (finalWith 0 64)).sliceOffset.toNat +
        (accepted .getDigestSlice (finalWith 0 64)).sliceLen.toNat ≤ 64) := by decide

theorem witness_SliceOutOfRangeStops :
    (accepted .getDigestSlice (finalWith 65 0)).busy = true ∧
      64 < (accepted .getDigestSlice (finalWith 65 0)).sliceOffset.toNat +
        (accepted .getDigestSlice (finalWith 65 0)).sliceLen.toNat := by decide

theorem witness_PerformFrame :
    (∃ t, exec .init (accepted .init State.reset) = .next t) ∧ (∃ t, exec .compressBlock (accepted .compressBlock fresh) = .next t) ∧
      (∃ t, exec .finalize (accepted .finalize fresh) = .next t) ∧
      ∃ t, exec .getDigestSlice (accepted .getDigestSlice (finalWith 0 64)) = .next t :=
  ⟨⟨_, exec_init_busy _ rfl⟩, ⟨_, exec_compressBlock_busy _ rfl⟩, ⟨_, exec_finalize_busy _ rfl⟩,
    ⟨_, exec_getDigestSlice_busy _ rfl (by decide)⟩⟩

/-- The first and last offset of each range of the map, and what makes an access not exist, one at a time. -/
theorem witness_BusErrorIsAFault :
    [(Width.w32, 0x000), (.w32, 0x0FC)].all (fun p => accessExists p.1 p.2) = true ∧
      [(Width.w8, 0x000), (.w16, 0x000), (.w64, 0x000), (.w32, 0x001), (.w32, 0x0FE), (.w32, 0x100)].all
        (fun p => !accessExists p.1 p.2) = true ∧
      (withTurns [rd 0x100] State.reset).turns = .host (.read .w32 0x100) :: [] := by decide

/-- `ReadReturnsTheWindowWord`, one read in each clause of a state that shows which register it is. -/
theorem witness_ReadReturnsTheWindowWord :
    ∀ p ∈ [(0x000, 0x01000000), (0x07C, 0x00000002), (0x080, 3), (0x084, 4), (0x088, 5), (0x08C, 6), (0x090, 0), (0x094, 0x00000606),
        (0x098, 8), (0x09C, 9), (0x0A0, 0), (0x0BC, 0), (0x0C0, 0x0A000000), (0x0FC, 0x0000000B)],
      p.1 % 4 = 0 ∧ p.1 ≤ 0x0FC ∧
        wordsAfter (step (withTurns [rd p.1]
          { finalWith 5 6 with block := [(0, 1), (127, 2)], totalSize := 0x0000000300000004, doutLen := 8, errInfo := 9,
                               err := some .busyWrite, dout := [(0, 10), (63, 11)] })) [p.1] =
          some [p.2] := by decide +kernel

/-- `WriteReplacesExactlyItsBits`: a write to each clause's ends, read back, and its neighbours unchanged. -/
theorem witness_WriteReplacesExactlyItsBits :
    fresh.busy = false ∧ Memory.wf 128 fresh.block = true ∧
      ∀ off ∈ [0x000, 0x07C, 0x080, 0x084, 0x088, 0x08C],
        off % 4 = 0 ∧ wordsAfter (step (withTurns [wr off 0xA1B2C3D4] fresh)) [off, (off + 4) % 0x90] = some [0xA1B2C3D4, 0] := by
  decide

theorem witness_ReadAfterWrite :
    fresh.busy = false ∧ Memory.wf 128 fresh.block = true ∧
      (∃ t, windowWrite 0x07C 0xA1B2C3D4 fresh = .next t) ∧ ∃ t, windowWrite 0x08C 1 fresh = .next t :=
  ⟨rfl, rfl, ⟨_, rfl⟩, ⟨_, rfl⟩⟩

/-- `ReadOnlyOffsetsIgnoreWrites`: STATUS, ERR_INFO, the reserved offsets, DOUT_W; with BUSY = 0 and with BUSY = 1. -/
theorem witness_ReadOnlyOffsetsIgnoreWrites :
    ∀ off ∈ [0x094, 0x098, 0x09C, 0x0A0, 0x0BC, 0x0C0, 0x0FC],
      off % 4 = 0 ∧ 0x094 ≤ off ∧ off ≤ 0x0FC ∧
        nextOf (step (withTurns [wr off 0xFFFFFFFF] fresh)) = some fresh ∧
        wordsAfter (step (withTurns [wr off 0xFFFFFFFF] (accepted .init fresh))) [0x094] = some [0x00000603] := by decide

theorem witness_BusyWindowIgnoresWrites :
    ∀ off ∈ [0x000, 0x090, 0x0A0, 0x0FC],
      off % 4 = 0 ∧ off ≤ 0x0FC ∧ (withTurns [wr off 1] (accepted .init fresh)).turns = .host (.write .w32 off 1) :: [] ∧
        (withTurns [wr off 1] (accepted .init fresh)).busy = true := by decide

/-- `BusyWindowIgnoresWrites` and `AcceptanceByPhase` with an error recorded before: ERR and ERR_INFO stay, ERR_MULTI is set (V-ERR-8). -/
theorem witness_later_error :
    wordsAfter (step (withTurns [wr 0x000 1] (accepted .compressBlock { fresh with err := some .range, errInfo := 4 }))) [0x094, 0x09C] =
        some [0x00001503, 0x00000004] ∧
      wordsAfter (exec .getDigestSlice { fresh with err := some .notInit, errInfo := 2 }) [0x094, 0x09C] =
        some [0x00001202, 0x00000002] := by decide

/-- `OneErrorPerWriteInPriorityOrder`: one write for each place in the order, and two that raise nothing: an accepted command, and a write to
another offset. -/
theorem witness_OneErrorPerWriteInPriorityOrder :
    [(accepted .init State.reset, 0x000), (State.reset, 0x0000000F), (State.reset, 4), (fresh, 4), (finalWith 65 0, 2), (finalWith 65 0, 4),
        (finalWith 64 0, 4)].map (fun p => (nextOf (windowWrite 0x090 p.2 p.1)).map fun t => (t.errLog, t.errInfo)) =
      [some ([(.busyWrite, 0x090)], 0x090), some ([(.illegalCmd, 0x0000000F)], 0x0000000F), some ([(.notInit, 4)], 4),
        some ([(.notFinal, 4)], 4), some ([(.afterFinal, 2)], 2), some ([(.range, 4)], 4), some ([], 0)] ∧
    (nextOf (windowWrite 0x088 5 State.reset)).map State.errLog = some [] := by decide

theorem witness_ResetAbandonsTheCommand :
    (withTurns [.reset, .engine] (accepted .finalize fresh)).turns = .reset :: [.engine] := by decide

/-- The ends of the ranges of the datapath statements: shift distances 1 and 63, bit 63, byte 7 of word 15, schedule words 16 and 79,
digest byte 63. -/
theorem witness_ranges :
    (1 ≤ 1 ∧ 1 ≤ 63) ∧ (1 ≤ 63 ∧ 63 ≤ 63) ∧ 63 < 64 ∧ (15 < 16 ∧ 7 < 8) ∧ (16 ≤ 16 ∧ 16 < 80) ∧ (16 ≤ 79 ∧ 79 < 80) ∧ 8 * 7 + 7 < 64 := by
  decide

/-- The tail lengths at which the number of padding blocks changes, and the longest. -/
theorem witness_PadBlocksAreThePaddedMessage :
    [0, 111, 112, 127].map (fun n => (padBlocks .exact (List.replicate n 0x61) (BitVec.ofNat 64 n)).length) = [1, 1, 2, 2] ∧
      (List.replicate 127 (0x61 : Byte)).length ≤ 127 := by decide

/-- The largest total on which the two modes agree, and the next one (43_finalize.md R153). -/
theorem witness_LengthFieldModes :
    (0x1fffffffffffffff : Word64).toNat < 2 ^ 61 ∧ lenField .exact 0x2000000000000000 ≠ lenField .wrap64 0x2000000000000000 := by decide

/-- Two buffers that agree on the three tail bytes and differ on the next. -/
theorem witness_BytesPastTheTailAreIgnored :
    ∃ (s t : State) (b : Memory), s.busy = true ∧ (∀ k, k < s.totalSize.toNat % 128 → b.read k = s.block.read k) ∧
      exec .finalize s = .next t ∧ b.read 3 ≠ s.block.read 3 :=
  ⟨accepted .finalize { fresh with block := [(0, 0x61), (1, 0x62), (2, 0x63)], totalSize := 3 }, _,
    [(0, 0x61), (1, 0x62), (2, 0x63), (3, 0xFF)], rfl, by decide, exec_finalize_busy _ rfl, by decide⟩

theorem witness_FinalizeEmptyMessage :
    (accepted .finalize fresh).busy = true ∧ (accepted .finalize fresh).h = iv ∧ (accepted .finalize fresh).totalSize = 0 := by decide

theorem witness_SliceComposition :
    ∃ (s t1 t2 t : State) (a b : Nat), s.busy = true ∧ s.dout.wf 64 = true ∧ a ≤ b ∧ b ≤ 64 ∧
      exec .getDigestSlice { s with sliceOffset := BitVec.ofNat 32 a, sliceLen := BitVec.ofNat 32 (b - a) } = .next t1 ∧
      exec .getDigestSlice { s with sliceOffset := BitVec.ofNat 32 b, sliceLen := BitVec.ofNat 32 (64 - b) } = .next t2 ∧
      exec .getDigestSlice { s with sliceOffset := 0, sliceLen := 64 } = .next t :=
  ⟨accepted .getDigestSlice (finalWith 0 0), _, _, _, 0, 32, rfl, rfl, by decide, by decide,
    exec_getDigestSlice_busy _ rfl (by decide), exec_getDigestSlice_busy _ rfl (by decide),
    exec_getDigestSlice_busy _ rfl (by decide)⟩

theorem witness_BusWordsPackBigEndian :
    ∃ s t : State, s.busy = true ∧ s.dout.wf 64 = true ∧ s.sliceOffset = 0 ∧ s.sliceLen = 64 ∧ exec .getDigestSlice s = .next t :=
  ⟨accepted .getDigestSlice (finalWith 0 64), _, rfl, rfl, rfl, rfl, exec_getDigestSlice_busy _ rfl (by decide)⟩

/-! The invariant, in states of every kind of step. -/

/-- The invariant of a state with empty buffers and no error. -/
theorem inv_of_empty {s : State} (hb : s.block = []) (hd : s.dout = []) (hl : s.doutLen = 0) (he : s.err = none)
    (hm : s.errMulti = false ∧ s.errInfo = 0) (hp : s.busy = true → ∃ i, s.pending = some i ∧ checkCommand i s = none) : EngineInv s where
  blockWf := by rw [hb]; rfl
  doutWf := by rw [hd]; rfl
  doutSlice := ⟨0, by rw [hl]; decide, fun k _ => by rw [hd, hl]; rfl⟩
  doutOnlyInFinal := fun _ => hl
  pendingAccepted := hp
  noErrorNoDetail := fun _ => hm
  errorLogged := fun e h => by rw [he] at h; cases h

/-- `StepKeepsEngineInv` and `PhaseChangesOnlyByTheTable`: a pending INIT, COMPRESS_BLOCK and FINALIZE, and a reset, each stepping to another
phase. -/
theorem witness_phase_changes :
    (EngineInv (accepted .init State.reset) ∧ ∃ t, step (accepted .init State.reset) = .next t ∧ t.phase = .fresh) ∧
      (EngineInv (accepted .compressBlock fresh) ∧ ∃ t, step (accepted .compressBlock fresh) = .next t ∧ t.phase = .accum) ∧
      (EngineInv (accepted .finalize { fresh with phase := .accum }) ∧
        ∃ t, step (accepted .finalize { fresh with phase := .accum }) = .next t ∧ t.phase = .final) ∧
      (EngineInv (withTurns [.reset] fresh) ∧ (nextOf (step (withTurns [.reset] fresh))).map State.phase = some .uninit) :=
  ⟨⟨inv_of_empty rfl rfl rfl rfl ⟨rfl, rfl⟩ fun _ => ⟨_, rfl, by decide⟩,
      _, (step_of_no_turns _ rfl).trans ((engineStep_busy _ _ rfl rfl).trans (exec_init_busy _ rfl)), performInit_phase _⟩,
    ⟨inv_of_empty rfl rfl rfl rfl ⟨rfl, rfl⟩ fun _ => ⟨_, rfl, by decide⟩,
      _, (step_of_no_turns _ rfl).trans ((engineStep_busy _ _ rfl rfl).trans (exec_compressBlock_busy _ rfl)),
      performCompressBlock_phase _⟩,
    ⟨inv_of_empty rfl rfl rfl rfl ⟨rfl, rfl⟩ fun _ => ⟨_, rfl, by decide⟩,
      _, (step_of_no_turns _ rfl).trans ((engineStep_busy _ _ rfl rfl).trans (exec_finalize_busy _ rfl)), performFinalize_phase _⟩,
    ⟨inv_of_empty rfl rfl rfl rfl ⟨rfl, rfl⟩ fun h => (by cases h), by decide⟩⟩

/-- The invariant with a slice shown in DOUT, BLOCK not empty, an error recorded, and GET_DIGEST_SLICE pending. -/
theorem witness_inv_with_a_slice_shown :
    EngineInv (accepted .getDigestSlice
      { finalWith 63 1 with block := [(127, 1)], dout := [(0, 0xcf)], doutLen := 1, err := some .range, errInfo := 4,
                            errLog := [(.range, 4)] }) where
  blockWf := by decide
  doutWf := by decide
  doutSlice := ⟨0, by decide, by decide⟩
  doutOnlyInFinal := fun h => absurd rfl h
  pendingAccepted := fun _ => ⟨_, rfl, by decide⟩
  noErrorNoDetail := fun h => by cases h
  errorLogged := fun e h => by cases h; decide

/-- `OperandsAreStableWhileBusy`: a host write in the busy window. -/
theorem witness_OperandsAreStableWhileBusy :
    (withTurns [wr 0x088 1] (accepted .getDigestSlice (finalWith 0 64))).busy = true ∧
      (nextOf (step (withTurns [wr 0x088 1] (accepted .getDigestSlice (finalWith 0 64))))).map State.busy = some true := by decide

/-- `OnlyThreeCommandsWriteH`: a step that changes H, by a pending INIT and by a reset. -/
theorem witness_OnlyThreeCommandsWriteH :
    (nextOf (step (accepted .init State.reset))).map (fun t => decide (t.h ≠ State.reset.h)) = some true ∧
      (nextOf (step (withTurns [.reset] fresh))).map (fun t => decide (t.h ≠ fresh.h)) = some true := by decide

/-- `ChainingValueIsHidden`: two states that differ in H, the first with a host read and the second with a pending COMPRESS_BLOCK; and a state
outside FINAL that meets the invariant. -/
theorem witness_ChainingValueIsHidden :
    SameButChainingValue (withTurns [rd 0x094] fresh) (withTurns [rd 0x094] { fresh with h := emptyDigest }) ∧
      SameButChainingValue (accepted .compressBlock fresh) (accepted .compressBlock { fresh with h := emptyDigest }) ∧
      ¬ (engineMovesNext (accepted .compressBlock fresh) ∧ (accepted .compressBlock fresh).busy = true ∧
        (accepted .compressBlock fresh).pending = some .getDigestSlice) ∧
      EngineInv fresh ∧ fresh.phase ≠ .final :=
  ⟨rfl, rfl, fun h => absurd h.2.2 (by decide), inv_of_empty rfl rfl rfl rfl ⟨rfl, rfl⟩ fun h => (by cases h), by decide⟩

/-- `ErrorRecordDoesNotSteer`: two states that differ in the error record. -/
theorem witness_ErrorRecordDoesNotSteer :
    SameButErrorRecord (withTurns [wr 0x090 4] (finalWith 0 64))
      (withTurns [wr 0x090 4] { finalWith 0 64 with err := some .range, errMulti := true, errInfo := 4, errLog := [(.range, 4)] }) := rfl

/-- `OnlyBusErrorsStop` and `EveryAcceptedCommandIsPerformed`: a state of the invariant about to stop, and one that goes on. -/
theorem witness_OnlyBusErrorsStop :
    EngineInv (withTurns [rd 0x100] fresh) ∧ faultOf (step (withTurns [rd 0x100] fresh)) = some .busError ∧
      EngineInv (withTurns [wr 0x090 2, rd 0x094] fresh) :=
  ⟨inv_of_empty rfl rfl rfl rfl ⟨rfl, rfl⟩ fun h => (by cases h), by decide, inv_of_empty rfl rfl rfl rfl ⟨rfl, rfl⟩ fun h => (by cases h)⟩

/-- `EveryAcceptedCommandIsPerformed`: an accepted INIT, two host accesses, then the engine's turn and a reset; and one with no turn at all. -/
theorem witness_EveryAcceptedCommandIsPerformed :
    EngineInv (withTurns ([rd 0x094, wr 0x000 1] ++ .engine :: [.reset]) (accepted .init State.reset)) ∧
      (withTurns ([rd 0x094, wr 0x000 1] ++ .engine :: [.reset]) (accepted .init State.reset)).busy = true ∧
      (withTurns ([rd 0x094, wr 0x000 1] ++ .engine :: [.reset]) (accepted .init State.reset)).pending = some .init ∧
      (∀ u ∈ [rd 0x094, wr 0x000 1], ∃ a, u = .host a) ∧
      EngineInv (accepted .compressBlock fresh) ∧ (accepted .compressBlock fresh).turns = [] :=
  ⟨inv_of_empty rfl rfl rfl rfl ⟨rfl, rfl⟩ fun _ => ⟨_, rfl, by decide⟩, rfl, rfl, by simp [rd, wr],
    inv_of_empty rfl rfl rfl rfl ⟨rfl, rfl⟩ fun _ => ⟨_, rfl, by decide⟩, rfl⟩

/-- `ErrorsAreClearedOnlyByInitAndReset`: an error kept, one cleared by INIT, one by reset. -/
theorem witness_ErrorsAreClearedOnlyByInitAndReset :
    [wr 0x090 3, wr 0x090 1, .reset].map (fun u =>
        (nextOf (step (withTurns [u] { State.reset with err := some .notInit, errInfo := 2 }))).map State.err) =
      [some (some .notInit), some none, some none] := by decide

/-- `PlatformEnginesAreIndependent`: each kind of turn, with an engine it does not concern. -/
theorem witness_PlatformEnginesAreIndependent :
    inWindow 0x100 (platformAddress (.write .w32 0x290 1)) = false ∧ inWindow 0x200 (platformAddress (.write .w32 0x290 1)) = true ∧
      (∃ q, platformStep (.host (.write .w32 0x290 1)) [⟨0x100, State.reset⟩, ⟨0x200, State.reset⟩] = .next q) ∧
      (∃ q, platformStep (.engine 1) [⟨0x100, State.reset⟩, ⟨0x200, State.reset⟩] = .next q) ∧
      (∃ q, platformStep (.reset 0) [⟨0x100, fresh⟩, ⟨0x200, fresh⟩] = .next q) ∧
      [⟨0x100, State.reset⟩, ⟨0x200, State.reset⟩][0]? = some (⟨0x100, State.reset⟩ : EngineAt) ∧ 1 ≠ 0 :=
  ⟨by decide, by decide, ⟨_, rfl⟩, ⟨_, rfl⟩, ⟨_, rfl⟩, rfl, by decide⟩

/-- `PlatformEnginesAreIndependent`: in a well-formed platform the first and last word of a window reach its engine, a misaligned access is its
bus error, and an address outside both windows reaches none. -/
theorem witness_platform_windows :
    platformWellFormed [⟨0x100, fresh⟩, ⟨0x200, State.reset⟩] = true ∧ inWindow 0x200 0x200 = true ∧ inWindow 0x200 0x2FC = true ∧
      inWindow 0x200 0x300 = false ∧ inWindow 0x200 0x1FC = false ∧ inWindow 0x100 0x300 = false ∧
      wordsAfter (busAccess (windowAccess 0x200 (.write .w32 0x290 1)) State.reset) [0x094] = some [0x00000001] ∧
      faultOf (busAccess (windowAccess 0x200 (.read .w32 0x202)) State.reset) = some .busError ∧
      wordsAfter (engineStep (accepted .init State.reset)) [0x094] = some [0x00000002] ∧
      faultOf (engineStep { State.reset with busy := true }) = some .noPendingCommand := by decide

/-- `WaitGoesRoundWhileBusy`: a host at the WAIT after its INIT write. -/
theorem witness_WaitGoesRoundWhileBusy :
    ∃ (a : HostAgent) (label name : Nat), a.failed = false ∧
      a.script[a.line]? = some ⟨some label, .rd 0x094 (some name)⟩ ∧
      a.script[a.line + 1]? = some (plainLine (.bnz name 0x00000001 label)) ∧ findLabel label a.script = some a.line :=
  ⟨⟨scriptCommand .init ++ scriptWait 7 9, 1, [], false⟩, 7, 9, by decide⟩

end Sys2Proof.Tests
end

section
/-!
PROOFS. Acceptance: in which phase the checks accept each command (spec/10_state.md R23; spec/60_exceptions.md R202), and what its issue
part leaves.
-/
namespace Sys2Proof.Machine

/-- COMPRESS_BLOCK is accepted in FRESH and ACCUM (spec/42_compress.md R138). -/
theorem checkCommand_compressBlock_eq_none {s : State} :
    checkCommand .compressBlock s = none ↔ s.phase = .fresh ∨ s.phase = .accum := by
  cases hp : s.phase <;> simp [checkCommand, hp]

/-- FINALIZE is accepted in FRESH and ACCUM (spec/43_finalize.md R157). -/
theorem checkCommand_finalize_eq_none {s : State} :
    checkCommand .finalize s = none ↔ s.phase = .fresh ∨ s.phase = .accum := by
  cases hp : s.phase <;> simp [checkCommand, hp]

/-- GET_DIGEST_SLICE is accepted in FINAL, for a slice inside the digest (spec/44_digest.md R172). -/
theorem checkCommand_getDigestSlice_eq_none {s : State} :
    checkCommand .getDigestSlice s = none ↔ s.phase = .final ∧ s.sliceOffset.toNat + s.sliceLen.toNat ≤ 64 := by
  cases hp : s.phase <;> simp [checkCommand, sliceInRange, hp]

/-- With BUSY = 0 an issued command leaves BUSY = 1 exactly where its check accepts it (spec/70_reset_and_hazards.md R233). -/
theorem issueCommand_busy_iff {i : Instr} {s : State} (hb : s.busy = false) :
    (issueCommand i s).busy = true ↔ checkCommand i s = none := by
  rcases issueCommand_cases i s with ⟨e, hc, ht⟩ | ⟨hc, ht⟩
  · simp [hc, ht, hb]
  · simp [hc, ht]

/-- Settles O13: the issue part accepts or raises one usage error, by the check of the command. -/
theorem acceptanceByPhase : Obligations.AcceptanceByPhase := by
  intro i s hb
  refine ⟨issueCommand i s, exec_idle i s hb, (issueCommand_busy_iff hb).trans ?_, ?_, ?_⟩
  · cases i with
    | init => simp
    | compressBlock => exact checkCommand_compressBlock_eq_none
    | finalize => exact checkCommand_finalize_eq_none
    | getDigestSlice => exact checkCommand_getDigestSlice_eq_none
  · intro hbusy
    rcases issueCommand_cases i s with ⟨e, _, ht⟩ | ⟨_, ht⟩
    · simp [ht, hb] at hbusy
    · simp [ht]
  · intro hidle
    rcases issueCommand_cases i s with ⟨e, _, ht⟩ | ⟨_, ht⟩
    · rw [ht]
      exact ⟨raiseUsageError_pending .., e, raiseUsageError_errLog .., raiseUsageError_shows_first e (encode i) s,
        fun d => raiseUsageError_shows_later e d (encode i) s⟩
    · simp [ht] at hidle

end Sys2Proof.Machine
end

section
/-!
PROOFS. STATUS as a number, and what reset leaves.
-/
namespace Sys2Proof.Machine

/-- Two fields side by side as a number. -/
theorem toNat_append_eq_add {m n : Nat} (x : BitVec m) (y : BitVec n) : (x ++ y).toNat = 2 ^ n * x.toNat + y.toNat := by
  rw [BitVec.toNat_append, ← Nat.shiftLeft_add_eq_or_of_lt y.isLt, Nat.shiftLeft_eq, Nat.mul_comm]

/-- STATUS as a number: each field times the value of its lowest bit (spec/10_state.md R31). -/
theorem statusWord_toNat (s : State) :
    (statusWord s).toNat =
      s.busy.toNat + 2 * (phaseCode s.phase).toNat + 2 ^ 8 * (errField s.err).toNat + 2 ^ 12 * s.errMulti.toNat := by
  have hp := (phaseCode s.phase).isLt
  have he := (errField s.err).isLt
  have hb := Bool.toNat_le s.busy
  have hm := Bool.toNat_le s.errMulti
  simp only [statusWord, BitVec.toNat_setWidth, toNat_append_eq_add, BitVec.toNat_ofBool, BitVec.toNat_ofNat]
  omega

/-- A bit of a word, from its number. -/
theorem getLsbD_eq_of_toNat {w : Nat} {x : BitVec w} {i : Nat} {b : Bool} (h : x.toNat / 2 ^ i % 2 = b.toNat) : x.getLsbD i = b := by
  rw [BitVec.getLsbD, Nat.testBit_eq_decide_div_mod_eq, h]
  cases b <;> rfl

/-- A field of a word, from its number. -/
theorem extractLsb'_eq_of_toNat {w : Nat} {x : BitVec w} {start len : Nat} {f : BitVec len}
    (h : x.toNat / 2 ^ start % 2 ^ len = f.toNat) : x.extractLsb' start len = f := by
  apply BitVec.eq_of_toNat_eq
  rw [BitVec.extractLsb'_toNat, Nat.shiftRight_eq_div_pow, h]

/-- Settles O28: each field is the quotient and remainder that its place in the number STATUS gives. -/
theorem statusLayout : Obligations.StatusLayout := by
  intro s
  have hn := statusWord_toNat s
  have hp := (phaseCode s.phase).isLt
  have he := (errField s.err).isLt
  have hb := Bool.toNat_le s.busy
  have hm := Bool.toNat_le s.errMulti
  have hphase : (statusWord s).extractLsb' 1 2 = phaseCode s.phase := extractLsb'_eq_of_toNat (by omega)
  have herr : (statusWord s).extractLsb' 8 4 = errField s.err := extractLsb'_eq_of_toNat (by omega)
  refine ⟨getLsbD_eq_of_toNat (by omega), hphase.trans ?_, extractLsb'_eq_of_toNat ?_, herr.trans ?_,
    getLsbD_eq_of_toNat (by omega), extractLsb'_eq_of_toNat ?_⟩
  · cases s.phase <;> rfl
  · change (statusWord s).toNat / 2 ^ 3 % 2 ^ 5 = 0
    omega
  · rcases s.err with _ | e
    · rfl
    · cases e <;> rfl
  · change (statusWord s).toNat / 2 ^ 13 % 2 ^ 19 = 0
    omega

/-- Settles O29: each register at its row of the reset table. -/
theorem resetValues : Obligations.ResetValues :=
  ⟨rfl, rfl, rfl, rfl, rfl, rfl, rfl, rfl, rfl, rfl, fun _ => rfl, fun _ => rfl, by decide⟩

end Sys2Proof.Machine
end

section
/-!
PROOFS. The invariant of the engine: each operation keeps it, so every step does.
-/
namespace Sys2Proof.Machine

/-- The invariant does not read the inputs still to come. -/
theorem engineInv_turns {s : State} (h : EngineInv s) (rest : List Turn) : EngineInv { s with turns := rest } := { h with }

/-- The invariant does not read the words the host has read. -/
theorem engineInv_reads {s : State} (h : EngineInv s) (ws : List Word32) : EngineInv { s with reads := ws } := { h with }

/-- A usage error is recorded together with its entry in the log. -/
theorem engineInv_raiseUsageError {s : State} (h : EngineInv s) (e : UsageError) (w : Word32) :
    EngineInv (raiseUsageError e w s) := by
  cases he : s.err with
  | none =>
    rw [raiseUsageError_first e w s he]
    exact { h with
      noErrorNoDetail := fun hn => by cases hn
      errorLogged := fun d hd => by cases hd; exact List.mem_cons_self }
  | some d =>
    rw [raiseUsageError_later e d w s he]
    exact { h with
      noErrorNoDetail := fun hn => by cases he.symm.trans hn
      errorLogged := fun c hc => List.mem_cons_of_mem _ (h.errorLogged c hc) }

/-- Acceptance makes a command pending that its check accepts. -/
theorem engineInv_acceptCommand {i : Instr} {s : State} (h : EngineInv s) (hc : checkCommand i s = none) :
    EngineInv (acceptCommand i s) := by
  by_cases hi : i = .init
  · subst hi
    rw [acceptCommand_init]
    exact { h with
      pendingAccepted := fun _ => ⟨.init, rfl, checkCommand_init _⟩
      noErrorNoDetail := fun _ => ⟨rfl, rfl⟩
      errorLogged := fun e he => by cases he }
  · rw [acceptCommand_other i s hi]
    exact { h with pendingAccepted := fun _ => ⟨i, rfl, hc⟩ }

theorem engineInv_issueCommand (i : Instr) {s : State} (h : EngineInv s) : EngineInv (issueCommand i s) := by
  rcases issueCommand_cases i s with ⟨e, _, ht⟩ | ⟨hc, ht⟩ <;> rw [ht]
  · exact engineInv_raiseUsageError h e (encode i)
  · exact engineInv_acceptCommand h hc

/-- With BUSY = 0 no pending command holds the operands, so a write may change them; with BUSY = 1 it changes none. -/
theorem engineInv_windowWrite {off : Nat} {v : Word32} {s t : State} (h : EngineInv s) (hw : windowWrite off v s = .next t) :
    EngineInv t := by
  rcases windowWrite_cases hw with
    ⟨_, rfl⟩ | ⟨hb, ⟨hoff, rfl⟩ | ⟨_, rfl⟩ | ⟨_, rfl⟩ | ⟨_, rfl⟩ | ⟨_, rfl⟩ | ⟨_, i, _, rfl⟩ | ⟨_, _, rfl⟩ | ⟨_, rfl⟩⟩
  · exact engineInv_raiseUsageError h .busyWrite _
  · exact { h with blockWf := Memory.store_wf h.blockWf (by rw [be32bytes_length]; omega) }
  · exact { h with }
  · exact { h with }
  · exact { h with pendingAccepted := fun hbusy => by cases hb.symm.trans hbusy }
  · exact { h with pendingAccepted := fun hbusy => by cases hb.symm.trans hbusy }
  · exact engineInv_issueCommand i h
  · exact engineInv_raiseUsageError h .illegalCmd v
  · exact h

theorem engineInv_busAccess {a : Access} {s t : State} (h : EngineInv s) (ha : busAccess a s = .next t) : EngineInv t := by
  rcases busAccess_cases ha with ⟨off, _, _, rfl⟩ | ⟨off, v, _, _, hw⟩
  · exact engineInv_reads h _
  · exact engineInv_windowWrite h hw

/-- A DOUT of zeros shows the empty slice, whatever the chaining value. -/
theorem doutShowsSlice_of_zero {s : State} (hlen : s.doutLen = 0) (hzero : ∀ k, k < 64 → s.dout.read k = 0) : DoutShowsSlice s :=
  ⟨0, by simp [hlen], fun k hk => by simp [hlen, hzero k hk]⟩

/-- Outside FINAL every byte of DOUT is 0 (spec/10_state.md R20). -/
theorem EngineInv.dout_read_eq_zero {s : State} (h : EngineInv s) (hp : s.phase ≠ .final) {k : Nat} (hk : k < 64) :
    s.dout.read k = 0 := by
  obtain ⟨off, _, hread⟩ := h.doutSlice
  rw [hread k hk, h.doutOnlyInFinal hp]
  simp

/-- INIT clears DOUT byte by byte (spec/41_init.md R121). -/
theorem engineInv_performInit {s : State} (h : EngineInv s) : EngineInv (performInit s) where
  blockWf := h.blockWf
  doutWf := by simpa using Memory.store_wf h.doutWf (by simp)
  doutSlice := doutShowsSlice_of_zero (performInit_doutLen s) fun k hk => by
    have hread := Memory.read_store_inside (vs := List.replicate 64 0) (a := 0) h.doutWf (by simp) (by simpa using hk)
    rw [Nat.zero_add] at hread
    rw [performInit_dout, hread, List.getD_replicate 0 hk]
  doutOnlyInFinal := fun _ => performInit_doutLen s
  pendingAccepted := by simp
  noErrorNoDetail := h.noErrorNoDetail
  errorLogged := h.errorLogged

/-- COMPRESS_BLOCK changes H while DOUT shows none of it. -/
theorem engineInv_performCompressBlock {s : State} (h : EngineInv s) (hp : s.phase ≠ .final) :
    EngineInv (performCompressBlock s) :=
  { h with
    doutSlice := doutShowsSlice_of_zero (h.doutOnlyInFinal hp) fun _ => h.dout_read_eq_zero hp
    doutOnlyInFinal := fun _ => h.doutOnlyInFinal hp
    pendingAccepted := by simp }

/-- FINALIZE changes H while DOUT shows none of it. -/
theorem engineInv_performFinalize {s : State} (h : EngineInv s) (hp : s.phase ≠ .final) : EngineInv (performFinalize s) :=
  { h with
    doutSlice := doutShowsSlice_of_zero (h.doutOnlyInFinal hp) fun _ => h.dout_read_eq_zero hp
    doutOnlyInFinal := fun _ => h.doutOnlyInFinal hp
    pendingAccepted := by simp }

/-- GET_DIGEST_SLICE shows the slice its operands name (spec/44_digest.md R173). -/
theorem engineInv_performGetDigestSlice {s : State} (h : EngineInv s) (hp : s.phase = .final)
    (hr : s.sliceOffset.toNat + s.sliceLen.toNat ≤ 64) : EngineInv (performGetDigestSlice s) :=
  { h with
    doutWf := by simpa using Memory.store_wf h.doutWf (by simp)
    doutSlice := ⟨s.sliceOffset.toNat, hr, fun k hk => by
      have hread := Memory.read_store_inside (vs := sliceBytes s.h s.sliceOffset.toNat s.sliceLen.toNat) (a := 0) h.doutWf
        (by simp) (by simpa using hk)
      rw [Nat.zero_add] at hread
      rw [performGetDigestSlice_dout, hread, sliceBytes_getD _ _ _ _ hk, performGetDigestSlice_doutLen, performGetDigestSlice_h]⟩
    doutOnlyInFinal := fun hn => absurd hp hn
    pendingAccepted := by simp }

/-- A command performed where its check accepts it. -/
theorem engineInv_exec_busy {i : Instr} {s t : State} (h : EngineInv s) (hb : s.busy = true) (hc : checkCommand i s = none)
    (he : exec i s = .next t) : EngineInv t := by
  rcases exec_busy_cases hb he with ⟨rfl, rfl⟩ | ⟨rfl, rfl⟩ | ⟨rfl, rfl⟩ | ⟨rfl, _, rfl⟩
  · exact engineInv_performInit h
  · have hp := checkCommand_compressBlock_eq_none.mp hc
    exact engineInv_performCompressBlock h (by rcases hp with hp | hp <;> simp [hp])
  · have hp := checkCommand_finalize_eq_none.mp hc
    exact engineInv_performFinalize h (by rcases hp with hp | hp <;> simp [hp])
  · obtain ⟨hp, hr⟩ := checkCommand_getDigestSlice_eq_none.mp hc
    exact engineInv_performGetDigestSlice h hp hr

/-- A pending command that is performed was accepted by its check (spec/70_reset_and_hazards.md R236). -/
theorem EngineInv.checkCommand_pending {i : Instr} {s : State} (h : EngineInv s) (hb : s.busy = true) (hp : s.pending = some i) :
    checkCommand i s = none := by
  obtain ⟨j, hj, hc⟩ := h.pendingAccepted hb
  cases hp.symm.trans hj
  exact hc

theorem engineInv_engineStep {s t : State} (h : EngineInv s) (he : engineStep s = .next t) : EngineInv t := by
  rcases engineStep_cases he with ⟨_, rfl⟩ | ⟨hb, i, hp, hx⟩
  · exact h
  · exact engineInv_exec_busy h hb (h.checkCommand_pending hb hp) hx

/-- Reset leaves the invariant true from any state at all. -/
theorem engineInv_resetEngine (s : State) : EngineInv (resetEngine s) where
  blockWf := rfl
  doutWf := rfl
  doutSlice := doutShowsSlice_of_zero rfl fun _ _ => rfl
  doutOnlyInFinal := fun _ => rfl
  pendingAccepted := fun hb => by cases hb
  noErrorNoDetail := fun _ => ⟨rfl, rfl⟩
  errorLogged := fun e he => by cases he

/-- Settles O48: the reset state is what reset makes of itself. -/
theorem engineInvAtReset : Obligations.EngineInvAtReset := engineInv_resetEngine State.reset

/-- Settles O49, by the kinds of step: the engine's, a host access, reset. -/
theorem stepKeepsEngineInv : Obligations.StepKeepsEngineInv := by
  intro s t h hs
  rcases step_cases hs with ⟨_, he⟩ | ⟨rest, _, he⟩ | ⟨a, rest, _, ha⟩ | ⟨rest, _, rfl⟩
  · exact engineInv_engineStep h he
  · exact engineInv_engineStep (engineInv_turns h rest) he
  · exact engineInv_busAccess (engineInv_turns h rest) ha
  · exact engineInv_resetEngine _

end Sys2Proof.Machine
end

section
/-!
PROOFS. H and PHASE change only at reset and when the engine performs a command.
-/
namespace Sys2Proof.Machine

@[simp] theorem issueCommand_h (i : Instr) (s : State) : (issueCommand i s).h = s.h := by
  rcases issueCommand_cases i s with ⟨e, _, ht⟩ | ⟨_, ht⟩ <;> simp [ht]

@[simp] theorem issueCommand_phase (i : Instr) (s : State) : (issueCommand i s).phase = s.phase := by
  rcases issueCommand_cases i s with ⟨e, _, ht⟩ | ⟨_, ht⟩ <;> simp [ht]

/-- A host access writes neither H nor PHASE (spec/20_memory.md R61). -/
theorem busAccess_h_phase {a : Access} {s t : State} (ha : busAccess a s = .next t) : t.h = s.h ∧ t.phase = s.phase := by
  rcases busAccess_cases ha with ⟨off, _, _, rfl⟩ | ⟨off, v, _, _, hw⟩
  · exact ⟨rfl, rfl⟩
  · rcases windowWrite_cases hw with
      ⟨_, rfl⟩ | ⟨_, ⟨_, rfl⟩ | ⟨_, rfl⟩ | ⟨_, rfl⟩ | ⟨_, rfl⟩ | ⟨_, rfl⟩ | ⟨_, i, _, rfl⟩ | ⟨_, _, rfl⟩ | ⟨_, rfl⟩⟩ <;>
      simp

/-- What a step does to H and PHASE: nothing, or it is reset, or the engine performs the pending command. -/
theorem step_h_phase_cases {s t : State} (hs : step s = .next t) :
    (t.h = s.h ∧ t.phase = s.phase) ∨
      (∃ rest, s.turns = .reset :: rest ∧ t = resetEngine { s with turns := rest }) ∨
      (engineMovesNext s ∧ s.busy = true ∧ ∃ i rest, s.pending = some i ∧ exec i { s with turns := rest } = .next t) := by
  rcases step_cases hs with ⟨hturn, he⟩ | ⟨rest, hturn, he⟩ | ⟨a, rest, _, ha⟩ | hreset
  · rcases engineStep_cases he with ⟨_, rfl⟩ | ⟨hb, i, hp, hx⟩
    · exact .inl ⟨rfl, rfl⟩
    · exact .inr (.inr ⟨.inl hturn, hb, i, s.turns, hp, hx⟩)
  · rcases engineStep_cases he with ⟨_, rfl⟩ | ⟨hb, i, hp, hx⟩
    · exact .inl ⟨rfl, rfl⟩
    · exact .inr (.inr ⟨.inr ⟨rest, hturn⟩, hb, i, rest, hp, hx⟩)
  · exact .inl (busAccess_h_phase (s := { s with turns := rest }) ha)
  · exact .inr (.inl hreset)

/-- Settles O51: the engine performs a command its check accepts, and only three of the four write PHASE. -/
theorem phaseChangesOnlyByTheTable : Obligations.PhaseChangesOnlyByTheTable := by
  intro s t h hs
  rcases step_h_phase_cases hs with ⟨_, hphase⟩ | ⟨rest, hturn, rfl⟩ | ⟨hmove, hb, i, rest, hp, hx⟩
  · exact .inl hphase
  · exact .inr (.inl ⟨rest, hturn, rfl⟩)
  · have hc := h.checkCommand_pending hb hp
    rcases exec_busy_cases (s := { s with turns := rest }) hb hx with ⟨rfl, rfl⟩ | ⟨rfl, rfl⟩ | ⟨rfl, rfl⟩ | ⟨rfl, _, rfl⟩
    · exact .inr (.inr ⟨hmove, hb, by simp, .inl ⟨hp, by simp⟩⟩)
    · exact .inr (.inr ⟨hmove, hb, by simp, .inr (.inl ⟨hp, checkCommand_compressBlock_eq_none.mp hc, by simp⟩)⟩)
    · exact .inr (.inr ⟨hmove, hb, by simp, .inr (.inr ⟨hp, checkCommand_finalize_eq_none.mp hc, by simp⟩)⟩)
    · exact .inl (by simp)

/-- Settles O52: of the four performed commands only GET_DIGEST_SLICE leaves H. -/
theorem onlyThreeCommandsWriteH : Obligations.OnlyThreeCommandsWriteH := by
  intro s t hs hne
  rcases step_h_phase_cases hs with ⟨hh, _⟩ | ⟨rest, hturn, _⟩ | ⟨hmove, hb, i, rest, hp, hx⟩
  · exact absurd hh hne
  · exact .inl ⟨rest, hturn⟩
  · rcases exec_busy_cases (s := { s with turns := rest }) hb hx with ⟨rfl, rfl⟩ | ⟨rfl, rfl⟩ | ⟨rfl, rfl⟩ | ⟨rfl, _, rfl⟩
    · exact .inr ⟨hmove, hb, by simp, .inl ⟨hp, by simp⟩⟩
    · exact .inr ⟨hmove, hb, by simp, .inr (.inl ⟨hp, performCompressBlock_h _⟩)⟩
    · exact .inr ⟨hmove, hb, by simp, .inr (.inr hp)⟩
    · exact absurd (performGetDigestSlice_h _) hne

end Sys2Proof.Machine
end

section
/-!
PROOFS. Noninterference of the chaining value: two states that differ only in H end alike and again differ only in H.
-/
namespace Sys2Proof.Machine

/-- The same state with another chaining value. -/
def State.withChainingValue (s : State) (h : ChainingValue) : State := { s with h := h }

@[simp] theorem withChainingValue_busy (s : State) (h : ChainingValue) : (s.withChainingValue h).busy = s.busy := rfl

/-- Two outcomes that end alike: the same fault, or states that differ at most in the chaining value. -/
def AlikeButChainingValue : Host.Outcome State Fault Refusal → Host.Outcome State Fault Refusal → Prop
  | .next t, .next t' => SameButChainingValue t t'
  | .fault r, .fault r' => r' = r
  | .refused r, .refused r' => r' = r
  | _, _ => False

theorem alikeButChainingValue_next {t t' : State} :
    AlikeButChainingValue (.next t) (.next t') ↔ SameButChainingValue t t' := Iff.rfl

theorem sameButChainingValue_iff {s s' : State} : SameButChainingValue s s' ↔ ∃ h, s' = s.withChainingValue h :=
  ⟨fun hs => ⟨s'.h, hs⟩, fun ⟨_, hs⟩ => by subst hs; rfl⟩

theorem alikeButChainingValue_ite {c : Prop} [Decidable c] {a a' b b' : Host.Outcome State Fault Refusal}
    (ha : AlikeButChainingValue a a') (hb : AlikeButChainingValue b b') :
    AlikeButChainingValue (if c then a else b) (if c then a' else b') := by
  split
  · exact ha
  · exact hb

theorem sameButChainingValue_raiseUsageError (e : UsageError) (w : Word32) (s : State) (h : ChainingValue) :
    SameButChainingValue (raiseUsageError e w s) (raiseUsageError e w (s.withChainingValue h)) := by
  obtain he | ⟨d, he⟩ := Option.eq_none_or_eq_some s.err
  · rw [raiseUsageError_first e w s he, raiseUsageError_first e w (s.withChainingValue h) he]; rfl
  · rw [raiseUsageError_later e d w s he, raiseUsageError_later e d w (s.withChainingValue h) he]; rfl

theorem sameButChainingValue_acceptCommand (i : Instr) (s : State) (h : ChainingValue) :
    SameButChainingValue (acceptCommand i s) (acceptCommand i (s.withChainingValue h)) := by
  by_cases hi : i = .init
  · subst hi
    rfl
  · rw [acceptCommand_other i _ hi, acceptCommand_other i _ hi]
    rfl

/-- The checks do not read H. -/
theorem sameButChainingValue_issueCommand (i : Instr) (s : State) (h : ChainingValue) :
    SameButChainingValue (issueCommand i s) (issueCommand i (s.withChainingValue h)) := by
  have hcheck : checkCommand i (s.withChainingValue h) = checkCommand i s := checkCommand_congr i rfl rfl rfl
  unfold issueCommand
  rw [hcheck]
  cases checkCommand i s with
  | none => exact sameButChainingValue_acceptCommand i s h
  | some e => exact sameButChainingValue_raiseUsageError e (encode i) s h

theorem writeCommand_alike (w : Word32) {s : State} (hb : s.busy = false) (h : ChainingValue) :
    AlikeButChainingValue (writeCommand w s) (writeCommand w (s.withChainingValue h)) := by
  unfold writeCommand
  cases decodeWord w with
  | command i =>
    simp only [exec_idle i s hb, exec_idle i (s.withChainingValue h) hb]
    exact alikeButChainingValue_next.mpr (sameButChainingValue_issueCommand i s h)
  | illegal why => exact alikeButChainingValue_next.mpr (sameButChainingValue_raiseUsageError .illegalCmd w s h)

/-- No write to the window reads H, and none reaches it. -/
theorem windowWrite_alike (off : Nat) (v : Word32) (s : State) (h : ChainingValue) :
    AlikeButChainingValue (windowWrite off v s) (windowWrite off v (s.withChainingValue h)) := by
  cases hb : s.busy with
  | true =>
    simp only [windowWrite, withChainingValue_busy, hb, if_true]
    exact alikeButChainingValue_next.mpr (sameButChainingValue_raiseUsageError .busyWrite _ s h)
  | false =>
    simp only [windowWrite, withChainingValue_busy, hb, Bool.false_eq_true, if_false]
    exact alikeButChainingValue_ite rfl <| alikeButChainingValue_ite rfl <| alikeButChainingValue_ite rfl <|
      alikeButChainingValue_ite rfl <| alikeButChainingValue_ite rfl <|
        alikeButChainingValue_ite (writeCommand_alike v hb h) rfl

/-- H has no address: no word read shows it (spec/20_memory.md R61). -/
theorem busAccess_alike (a : Access) (s : State) (h : ChainingValue) :
    AlikeButChainingValue (busAccess a s) (busAccess a (s.withChainingValue h)) := by
  cases a with
  | read width off => exact alikeButChainingValue_ite rfl rfl
  | write width off v => exact alikeButChainingValue_ite (windowWrite_alike off v s h) rfl

/-- INIT does not read H. -/
theorem sameButChainingValue_performInit (s : State) (h : ChainingValue) :
    SameButChainingValue (performInit s) (performInit (s.withChainingValue h)) := by
  simp only [SameButChainingValue, performInit, State.withChainingValue]

/-- H goes into H alone. -/
theorem sameButChainingValue_performCompressBlock (s : State) (h : ChainingValue) :
    SameButChainingValue (performCompressBlock s) (performCompressBlock (s.withChainingValue h)) := by
  simp only [SameButChainingValue, performCompressBlock, State.withChainingValue]

/-- H goes into H alone. -/
theorem sameButChainingValue_performFinalize (s : State) (h : ChainingValue) :
    SameButChainingValue (performFinalize s) (performFinalize (s.withChainingValue h)) := by
  simp only [SameButChainingValue, performFinalize, State.withChainingValue]

/-- Of the four commands only GET_DIGEST_SLICE carries H to where the host can see it (spec/10_state.md R20). -/
theorem exec_busy_alike {i : Instr} {s : State} (hb : s.busy = true) (hi : i ≠ .getDigestSlice) (h : ChainingValue) :
    AlikeButChainingValue (exec i s) (exec i (s.withChainingValue h)) := by
  cases i with
  | init =>
    rw [exec_init_busy s hb, exec_init_busy (s.withChainingValue h) hb]
    exact alikeButChainingValue_next.mpr (sameButChainingValue_performInit s h)
  | compressBlock =>
    rw [exec_compressBlock_busy s hb, exec_compressBlock_busy (s.withChainingValue h) hb]
    exact alikeButChainingValue_next.mpr (sameButChainingValue_performCompressBlock s h)
  | finalize =>
    rw [exec_finalize_busy s hb, exec_finalize_busy (s.withChainingValue h) hb]
    exact alikeButChainingValue_next.mpr (sameButChainingValue_performFinalize s h)
  | getDigestSlice => exact absurd rfl hi

theorem engineStep_noPending {s : State} (hb : s.busy = true) (hp : s.pending = none) : engineStep s = .fault .noPendingCommand := by
  simp [engineStep, hb, hp]

theorem engineStep_alike {s : State} (hi : ¬ (s.busy = true ∧ s.pending = some .getDigestSlice)) (h : ChainingValue) :
    AlikeButChainingValue (engineStep s) (engineStep (s.withChainingValue h)) := by
  cases hb : s.busy with
  | false =>
    rw [engineStep_idle s hb, engineStep_idle (s.withChainingValue h) hb]
    rfl
  | true =>
    obtain hp | ⟨i, hp⟩ := Option.eq_none_or_eq_some s.pending
    · rw [engineStep_noPending hb hp, engineStep_noPending (s := s.withChainingValue h) hb hp]
      rfl
    · rw [engineStep_busy s i hb hp, engineStep_busy (s.withChainingValue h) i hb hp]
      exact exec_busy_alike hb (fun hd => hi ⟨hb, hd ▸ hp⟩) h

/-- A step that does not perform GET_DIGEST_SLICE lets nothing of H out. -/
theorem step_alike {s : State} (hi : ¬ (engineMovesNext s ∧ s.busy = true ∧ s.pending = some .getDigestSlice)) (h : ChainingValue) :
    AlikeButChainingValue (step s) (step (s.withChainingValue h)) := by
  cases hturns : s.turns with
  | nil =>
    rw [step_of_no_turns s hturns, step_of_no_turns (s.withChainingValue h) hturns]
    exact engineStep_alike (fun hd => hi ⟨.inl hturns, hd⟩) h
  | cons u rest =>
    rw [step_of_turn s u rest hturns, step_of_turn (s.withChainingValue h) u rest hturns]
    cases u with
    | host a => exact busAccess_alike a { s with turns := rest } h
    | engine => exact engineStep_alike (s := { s with turns := rest }) (fun hd => hi ⟨.inr ⟨rest, hturns⟩, hd⟩) h
    | reset => rfl

theorem AlikeButChainingValue.exists_next {o o' : Host.Outcome State Fault Refusal} (ho : AlikeButChainingValue o o') {t : State}
    (h : o = .next t) : ∃ t', o' = .next t' ∧ SameButChainingValue t t' := by
  subst h
  cases o' with
  | next t' => exact ⟨t', rfl, ho⟩
  | fault r => exact ho.elim
  | refused r => exact ho.elim

theorem AlikeButChainingValue.eq_fault {o o' : Host.Outcome State Fault Refusal} (ho : AlikeButChainingValue o o') {r : Fault}
    (h : o = .fault r) : o' = .fault r := by
  subst h
  cases o' with
  | next t' => exact ho.elim
  | fault r' => exact congrArg _ ho
  | refused r' => exact ho.elim

/-- Settles O53: a step lets H out only by GET_DIGEST_SLICE, and its check, which still holds when it is pending, asks for FINAL. -/
theorem chainingValueIsHidden : Obligations.ChainingValueIsHidden := by
  refine ⟨fun s s' hs hi => ?_, fun s hinv hphase hd => ?_⟩
  · obtain ⟨h, rfl⟩ := sameButChainingValue_iff.mp hs
    have halike := step_alike hi h
    exact ⟨fun t ht => halike.exists_next ht, fun r hr => halike.eq_fault hr⟩
  · obtain ⟨hb, hp⟩ := hd
    exact hphase (checkCommand_getDigestSlice_eq_none.mp (hinv.checkCommand_pending hb hp)).1

end Sys2Proof.Machine
end

section
/-!
PROOFS. What a host's write does at each offset of the window (spec/20_memory.md R53, R58).
-/
namespace Sys2Proof.Machine

/-- BUSY = 1: a write is ignored and flagged (spec/70_reset_and_hazards.md R236). -/
theorem windowWrite_busy (off : Nat) (v : Word32) {s : State} (hb : s.busy = true) :
    windowWrite off v s = .next (raiseUsageError .busyWrite (BitVec.ofNat 32 off) s) := by
  rw [windowWrite, if_pos hb]

theorem windowWrite_block {off : Nat} (v : Word32) {s : State} (hb : s.busy = false) (h : off ≤ 0x07C) :
    windowWrite off v s = .next { s with block := s.block.store off (be32bytes v) } := by
  simp [windowWrite, hb, h]

theorem windowWrite_totalSizeHi (v : Word32) {s : State} (hb : s.busy = false) :
    windowWrite 0x080 v s = .next { s with totalSize := v ++ s.totalSize.extractLsb' 0 32 } := by
  simp [windowWrite, hb]

theorem windowWrite_totalSizeLo (v : Word32) {s : State} (hb : s.busy = false) :
    windowWrite 0x084 v s = .next { s with totalSize := s.totalSize.extractLsb' 32 32 ++ v } := by
  simp [windowWrite, hb]

theorem windowWrite_sliceOffset (v : Word32) {s : State} (hb : s.busy = false) :
    windowWrite 0x088 v s = .next { s with sliceOffset := v } := by
  simp [windowWrite, hb]

theorem windowWrite_sliceLen (v : Word32) {s : State} (hb : s.busy = false) :
    windowWrite 0x08C v s = .next { s with sliceLen := v } := by
  simp [windowWrite, hb]

theorem windowWrite_cmd (v : Word32) {s : State} (hb : s.busy = false) : windowWrite 0x090 v s = writeCommand v s := by
  simp [windowWrite, hb]

/-- Past CMD a write has no effect (spec/20_memory.md R58). -/
theorem windowWrite_pastCmd {off : Nat} (v : Word32) {s : State} (hb : s.busy = false) (h : 0x090 < off) :
    windowWrite off v s = .next s := by
  simp (disch := omega) only [windowWrite, hb, Bool.false_eq_true, if_false, if_neg]

/-- A write that exists is always carried out: what it cannot do it records (spec/60_exceptions.md R200). -/
theorem windowWrite_completes (off : Nat) (v : Word32) (s : State) : ∃ t, windowWrite off v s = .next t := by
  cases hb : s.busy with
  | true => exact ⟨_, windowWrite_busy off v hb⟩
  | false =>
    by_cases hcmd : off = 0x090
    · subst hcmd
      rw [windowWrite_cmd v hb]
      rcases writeCommand_cases (w := v) hb with ⟨i, _, hw⟩ | ⟨_, _, hw⟩
      · exact ⟨_, hw⟩
      · exact ⟨_, hw⟩
    · simp only [windowWrite, hb, Bool.false_eq_true, if_false, if_neg hcmd]
      split_ifs <;> exact ⟨_, rfl⟩

end Sys2Proof.Machine
end

section
/-!
PROOFS. The host's access as a step: which accesses exist, that those complete, and what else can stop a step (spec/20_memory.md R51).
-/
namespace Sys2Proof.Machine

/-- A turn given to the host is its access, made with the turn taken off. -/
theorem step_of_host {s : State} {a : Access} {rest : List Turn} (h : s.turns = .host a :: rest) :
    step s = busAccess a { s with turns := rest } := step_of_turn s (.host a) rest h

theorem accessExists_iff {width : Width} {off : Nat} :
    accessExists width off = true ↔ width = .w32 ∧ off % 4 = 0 ∧ off ≤ 0x0FC := by
  simp [accessExists, and_assoc]

theorem missing_of_not_accessExists {width : Width} {off : Nat} (h : ¬ accessExists width off = true) :
    width ≠ .w32 ∨ off % 4 ≠ 0 ∨ 0x0FC < off := by
  rwa [accessExists_iff, not_and_or, not_and_or, not_le] at h

theorem busAccess_completes_or_missing (a : Access) (s : State) :
    (∃ t, busAccess a s = .next t) ∨
      (busAccess a s = .fault .busError ∧ ∃ width off, (width ≠ .w32 ∨ off % 4 ≠ 0 ∨ 0x0FC < off) ∧
        (a = .read width off ∨ ∃ v, a = .write width off v)) := by
  cases a with
  | read width off =>
    by_cases he : accessExists width off = true
    · exact .inl ⟨_, by rw [busAccess, if_pos he]⟩
    · exact .inr ⟨by rw [busAccess, if_neg he], width, off, missing_of_not_accessExists he, .inl rfl⟩
  | write width off v =>
    by_cases he : accessExists width off = true
    · rw [busAccess, if_pos he]
      exact .inl (windowWrite_completes off v s)
    · exact .inr ⟨by rw [busAccess, if_neg he], width, off, missing_of_not_accessExists he, .inr ⟨v, rfl⟩⟩

/-- A command that its check accepts can be performed (spec/70_reset_and_hazards.md R233, R236). -/
theorem exec_completes_of_accepted {i : Instr} {s : State} (hb : s.busy = true) (hc : checkCommand i s = none) :
    ∃ t, exec i s = .next t := by
  cases i with
  | init => exact ⟨_, exec_init_busy s hb⟩
  | compressBlock => exact ⟨_, exec_compressBlock_busy s hb⟩
  | finalize => exact ⟨_, exec_finalize_busy s hb⟩
  | getDigestSlice =>
    have hr := (checkCommand_getDigestSlice_eq_none.mp hc).2
    exact ⟨_, exec_getDigestSlice_busy s hb (by simpa [sliceInRange] using hr)⟩

/-- In a state of the invariant the engine's own step never stops. -/
theorem EngineInv.engineStep_completes {s : State} (h : EngineInv s) : ∃ t, engineStep s = .next t := by
  cases hb : s.busy with
  | false => exact ⟨s, engineStep_idle s hb⟩
  | true =>
    obtain ⟨i, hp, hc⟩ := h.pendingAccepted hb
    rw [engineStep_busy s i hb hp]
    exact exec_completes_of_accepted hb hc

/-- Settles O55: the invariant keeps the engine's step going, so only a host access that does not exist stops the machine. -/
theorem onlyBusErrorsStop : Obligations.OnlyBusErrorsStop := by
  intro s h
  cases hturns : s.turns with
  | nil =>
    rw [step_of_no_turns s hturns]
    exact .inl h.engineStep_completes
  | cons u rest =>
    rw [step_of_turn s u rest hturns]
    cases u with
    | engine => exact .inl (engineInv_turns h rest).engineStep_completes
    | reset => exact .inl ⟨_, rfl⟩
    | host a =>
      rcases busAccess_completes_or_missing a { s with turns := rest } with hnext | ⟨hfault, width, off, hbad, ha⟩
      · exact .inl hnext
      · refine .inr ⟨hfault, width, off, rest, hbad, ?_⟩
        rcases ha with rfl | ⟨v, rfl⟩
        · exact .inl rfl
        · exact .inr ⟨v, rfl⟩

/-- Settles O21: an access that does not exist is refused by the bus; a read that exists answers the word at its offset. -/
theorem busErrorIsAFault : Obligations.BusErrorIsAFault := by
  intro s width off v rest
  refine ⟨fun hbad => ⟨fun hturns => ?_, fun hturns => ?_⟩, ?_⟩
  · rw [step_of_host hturns]
    exact busAccess_read_missing _ (accessExists_eq_false hbad)
  · rw [step_of_host hturns]
    exact busAccess_write_missing v _ (accessExists_eq_false hbad)
  · rintro ⟨rfl, h4, hle⟩ hturns
    exact ⟨_, (step_of_host hturns).trans (busAccess_read off _ h4 hle)⟩

end Sys2Proof.Machine
end

section
/-!
PROOFS. The register window: what a read returns, and which reads a write changes, offset by offset (spec/20_memory.md R52 to R58).
-/
namespace Sys2Proof.Machine

/-- A host's write that exists, as a step. -/
theorem step_of_write {s : State} {off : Nat} {v : Word32} {rest : List Turn} (h : s.turns = .host (.write .w32 off v) :: rest)
    (h4 : off % 4 = 0) (hle : off ≤ 0x0FC) : step s = windowWrite off v { s with turns := rest } :=
  (step_of_host h).trans (busAccess_write off v _ h4 hle)

/-- Settles O22: a read that exists returns `windowWord`, whose value at each offset the map gives. -/
theorem readReturnsTheWindowWord : Obligations.ReadReturnsTheWindowWord := by
  intro s off rest hturns
  rw [step_of_host hturns]
  refine ⟨fun hbad => busAccess_read_missing _ (accessExists_eq_false (.inr hbad)), fun h4 hle =>
    ⟨windowWord off s, busAccess_read off _ h4 hle, fun h => ?block, ?_, ?_, ?_, ?_, ?_, ?_, ?_, ?_, fun h => ?reserved,
      fun h => ?dout⟩⟩
  case block => rw [windowWord_block s h, be32_load]
  case reserved => exact windowWord_reserved s h.1 h.2
  case dout => rw [windowWord_dout s h, be32_load]
  all_goals
    rintro rfl
    rfl

/-- Settles O25: BUSY decides between the two clauses. -/
theorem readOnlyOffsetsIgnoreWrites : Obligations.ReadOnlyOffsetsIgnoreWrites := by
  intro s off v rest hturns h4 hge hle
  rw [step_of_write hturns h4 hle]
  exact ⟨fun hb => windowWrite_pastCmd v hb (by omega), fun hb => windowWrite_busy off v hb⟩

/-- Byte `j` of a bus word, most significant first (spec/00_scope.md R10). -/
theorem be32bytes_getD (w : Word32) {j : Nat} (hj : j < 4) : (be32bytes w).getD j 0 = w.extractLsb' (24 - 8 * j) 8 := by
  match j, hj with
  | 0, _ | 1, _ | 2, _ | 3, _ => rfl

/-- Settles O23: each read/write register by its own write. -/
theorem writeReplacesExactlyItsBits : Obligations.WriteReplacesExactlyItsBits := by
  intro s off v rest hturns hb hwf h4
  refine ⟨fun hle => ?_, ?_, ?_, ?_, ?_⟩
  · refine ⟨s.block.store off (be32bytes v), ?_, fun j hj => ?_, fun a ha => Memory.read_store_other ha⟩
    · rw [step_of_write hturns h4 (by omega)]
      exact windowWrite_block v hb hle
    · rw [Memory.read_store_inside hwf (by rw [be32bytes_length]; omega) hj, be32bytes_getD v hj]
  · rintro rfl
    exact ⟨_, (step_of_write hturns h4 (by decide)).trans (windowWrite_totalSizeHi v hb), extract_high .., extract_low ..⟩
  · rintro rfl
    exact ⟨_, (step_of_write hturns h4 (by decide)).trans (windowWrite_totalSizeLo v hb), extract_low .., extract_high ..⟩
  · rintro rfl
    exact (step_of_write hturns h4 (by decide)).trans (windowWrite_sliceOffset v hb)
  · rintro rfl
    exact (step_of_write hturns h4 (by decide)).trans (windowWrite_sliceLen v hb)

/-- BLOCK is seen at the offsets of BLOCK_W alone. -/
theorem windowWord_with_block (off : Nat) (s : State) (b : Memory) :
    windowWord off { s with block := b } = if off ≤ 0x07C then be32 (b.load off 4) 0 else windowWord off s := by
  split_ifs with h
  · exact windowWord_block _ h
  · unfold windowWord; rw [if_neg h, if_neg h]; rfl

/-- TOTAL_SIZE is seen at its two offsets alone. -/
theorem windowWord_with_totalSize (off : Nat) (s : State) (x : Word64) :
    windowWord off { s with totalSize := x } =
      if off = 0x080 then x.extractLsb' 32 32 else if off = 0x084 then x.extractLsb' 0 32 else windowWord off s := by
  split_ifs with hhi hlo
  · subst hhi; rfl
  · subst hlo; rfl
  · simp only [windowWord, if_neg hhi, if_neg hlo]; rfl

/-- SLICE_OFFSET is seen at its offset alone. -/
theorem windowWord_with_sliceOffset (off : Nat) (s : State) (v : Word32) :
    windowWord off { s with sliceOffset := v } = if off = 0x088 then v else windowWord off s := by
  split_ifs with h
  · subst h; rfl
  · simp only [windowWord, if_neg h]; rfl

/-- SLICE_LEN is seen at its offset alone. -/
theorem windowWord_with_sliceLen (off : Nat) (s : State) (v : Word32) :
    windowWord off { s with sliceLen := v } = if off = 0x08C then v else windowWord off s := by
  split_ifs with h
  · subst h; rfl
  · simp only [windowWord, if_neg h]; rfl

/-- The words of BLOCK do not overlap (spec/20_memory.md R55). -/
theorem be32_load_store_aligned {m : Memory} {off off' : Nat} (v : Word32) (hwf : m.wf 128 = true) (h4 : off % 4 = 0)
    (hle : off ≤ 0x07C) (h4' : off' % 4 = 0) :
    be32 ((m.store off (be32bytes v)).load off' 4) 0 = if off' = off then v else be32 (m.load off' 4) 0 := by
  split_ifs with heq
  · subst heq
    exact be32_load_store v hwf (by omega)
  · rw [Memory.load_congr fun k hk hk' => Memory.read_store_other (by rw [be32bytes_length]; omega)]

/-- Settles O24, by the register the write goes to. -/
theorem readAfterWrite : Obligations.ReadAfterWrite := by
  intro s t off off' v hb hwf h4 hle h4' _ hw
  have hregister : off ≤ 0x07C ∨ off = 0x080 ∨ off = 0x084 ∨ off = 0x088 ∨ off = 0x08C := by omega
  rcases hregister with hblock | rfl | rfl | rfl | rfl
  · rw [windowWrite_block v hb hblock] at hw
    injection hw with ht
    rw [← ht, windowWord_with_block, be32_load_store_aligned v hwf h4 hblock h4']
    by_cases hin : off' ≤ 0x07C
    · rw [if_pos hin, windowWord_block s hin]
    · rw [if_neg hin, if_neg (by omega)]
  · rw [windowWrite_totalSizeHi v hb] at hw
    injection hw with ht
    rw [← ht, windowWord_with_totalSize, extract_high, extract_low]
    by_cases hlo : off' = 0x084
    · subst hlo; rfl
    · rw [if_neg hlo]
  · rw [windowWrite_totalSizeLo v hb] at hw
    injection hw with ht
    rw [← ht, windowWord_with_totalSize, extract_high, extract_low]
    by_cases hhi : off' = 0x080
    · subst hhi; rfl
    · rw [if_neg hhi]
  · rw [windowWrite_sliceOffset v hb] at hw
    injection hw with ht
    rw [← ht, windowWord_with_sliceOffset]
  · rw [windowWrite_sliceLen v hb] at hw
    injection hw with ht
    rw [← ht, windowWord_with_sliceLen]

end Sys2Proof.Machine
end

section
/-!
PROOFS. The byte order of the bus: a datapath word is two bus words (spec/20_memory.md R55).
-/
namespace Sys2Proof.Machine

/-- Eight bytes joined one by one, or as two groups of four, are the same number. -/
theorem toNat_append_eight_bytes (a b c d e f g h : Byte) :
    (a ++ b ++ c ++ d ++ e ++ f ++ g ++ h).toNat = ((a ++ b ++ c ++ d) ++ (e ++ f ++ g ++ h)).toNat := by
  simp only [toNat_append_eq_add]
  omega

theorem be64_eq_append (bs : List Byte) (i : Nat) : be64 bs i = be32 bs i ++ be32 bs (i + 4) :=
  BitVec.eq_of_toNat_eq (toNat_append_eight_bytes ..)

/-- A word packed from a longer load is the word of the buffer at that place. -/
theorem be32_load_inside {m : Memory} {a i n : Nat} (h : i + 4 ≤ n) : be32 (m.load a n) i = be32 (m.load (a + i) 4) 0 := by
  simp (disch := omega) only [be32, byteAt, Memory.load_getD, Nat.add_assoc, Nat.zero_add, Nat.add_zero]

/-- Loading where bytes were just stored gives them back. -/
theorem Memory.load_store {size a : Nat} {m : Memory} {vs : List Byte} (hwf : m.wf size = true) (h : a + vs.length ≤ size) :
    (m.store a vs).load a vs.length = vs := by
  apply List.ext_getElem (Memory.load_length ..)
  intro k _ hk
  rw [← List.getD_eq_getElem _ 0, ← List.getD_eq_getElem _ 0, Memory.load_getD hk, Memory.read_store_inside hwf h hk]

theorem messageWords_getD (blk : List Byte) {j : Nat} (hj : j < 16) : (messageWords blk).getD j 0 = be64 blk (8 * j) := by
  simp [messageWords, List.getD_eq_getElem?_getD, hj]

/-- Words laid out one after the other, most significant byte first, are read back at every eighth byte (spec/44_digest.md R170). -/
theorem be64_flatMap_be64bytes : ∀ (ws : List Word64) (i : Nat), be64 (ws.flatMap be64bytes) (8 * i) = ws.getD i 0
  | [], _ => by simp [be64, byteAt]
  | w :: _, 0 => be64_be64bytes w
  | _ :: ws, i + 1 => be64_flatMap_be64bytes ws i

/-- The slice (0, 64) is the whole digest (spec/44_digest.md R173). -/
theorem sliceBytes_whole (h : ChainingValue) : sliceBytes h 0 64 = serialize h := by
  apply List.ext_getElem (by simp)
  intro k hk _
  rw [sliceBytes_length] at hk
  rw [← List.getD_eq_getElem _ 0, sliceBytes_getD _ _ _ _ hk, if_pos hk, Nat.zero_add, byteAt, List.getD_eq_getElem]

/-- Settles O47: both buffers show the host their bytes in the order in which the datapath packs its words. -/
theorem busWordsPackBigEndian : Obligations.BusWordsPackBigEndian := by
  refine ⟨fun s j hj => ?_, fun s t i hi hb hwf hoff hlen he => ?_⟩
  · rw [messageWords_getD _ hj, be64_eq_append, blockOperand, be32_load_inside (i := 8 * j) (by omega),
      be32_load_inside (i := 8 * j + 4) (by omega), windowWord_block s (by omega), windowWord_block s (by omega), Nat.zero_add,
      Nat.zero_add]
  · have hr : sliceInRange s = true := by simp [sliceInRange, hoff, hlen]
    rw [exec_getDigestSlice_busy s hb hr] at he
    injection he with ht
    have hdout : t.dout.load 0 64 = serialize s.h := by
      rw [← ht, performGetDigestSlice_dout, hoff, hlen]
      exact (Memory.load_store hwf (by simp)).trans (sliceBytes_whole s.h)
    have hword {k : Nat} (hk : k + 4 ≤ 64) : windowWord (0x0C0 + k) t = be32 (serialize s.h) k := by
      rw [windowWord_dout t (by omega), ← hdout, be32_load_inside hk, Nat.zero_add, Nat.add_sub_cancel_left]
    rw [hword (by omega), show 0x0C4 + 8 * i = 0x0C0 + (8 * i + 4) by omega, hword (by omega), ← be64_eq_append, serialize,
      be64_flatMap_be64bytes]

end Sys2Proof.Machine
end

section
/-!
PROOFS. The busy window: while BUSY = 1 only the host moves, and its accesses leave the command in flight alone
(spec/20_memory.md R57; spec/70_reset_and_hazards.md R236).
-/
namespace Sys2Proof.Machine

/-- A performed command leaves BUSY = 0 (spec/70_reset_and_hazards.md R234). -/
theorem exec_busy_ends {i : Instr} {s t : State} (hb : s.busy = true) (he : exec i s = .next t) : t.busy = false := by
  rcases exec_busy_cases hb he with ⟨_, rfl⟩ | ⟨_, rfl⟩ | ⟨_, rfl⟩ | ⟨_, _, rfl⟩ <;> simp

theorem engineStep_ends_idle {s t : State} (he : engineStep s = .next t) : t.busy = false := by
  rcases engineStep_cases he with ⟨hb, rfl⟩ | ⟨hb, i, _, hx⟩
  · exact hb
  · exact exec_busy_ends hb hx

/-- A step that leaves BUSY = 1 is a host access. -/
theorem step_stays_busy {s t : State} (hs : step s = .next t) (ht : t.busy = true) :
    ∃ a rest, s.turns = .host a :: rest ∧ busAccess a { s with turns := rest } = .next t := by
  rcases step_cases hs with ⟨_, he⟩ | ⟨rest, _, he⟩ | hhost | ⟨rest, _, rfl⟩
  · cases (engineStep_ends_idle he).symm.trans ht
  · cases (engineStep_ends_idle he).symm.trans ht
  · exact hhost
  · cases ht

/-- With BUSY = 1 a host access can read, or be recorded as BUSY_WRITE, and nothing else. -/
theorem busAccess_busy_cases {a : Access} {s t : State} (hb : s.busy = true) (ha : busAccess a s = .next t) :
    (∃ off, t = { s with reads := windowWord off s :: s.reads }) ∨
      ∃ off, t = raiseUsageError .busyWrite (BitVec.ofNat 32 off) s := by
  rcases busAccess_cases ha with ⟨off, _, _, rfl⟩ | ⟨off, v, _, _, hw⟩
  · exact .inl ⟨off, rfl⟩
  · rw [windowWrite_busy off v hb] at hw
    injection hw with ht
    exact .inr ⟨off, ht.symm⟩

/-- Settles O50: the step is a host access, and neither a read nor BUSY_WRITE touches the command or its operands. -/
theorem operandsAreStableWhileBusy : Obligations.OperandsAreStableWhileBusy := by
  intro s t hb hs ht
  obtain ⟨a, rest, _, ha⟩ := step_stays_busy hs ht
  rcases busAccess_busy_cases (s := { s with turns := rest }) hb ha with ⟨off, rfl⟩ | ⟨off, rfl⟩ <;> simp

end Sys2Proof.Machine
end

section
/-!
PROOFS. The command word: what decoding answers for each of the 2^32 words, and that it undoes encoding (spec/30_encoding.md R81 to R85).
-/
namespace Sys2Proof.Machine

/-- The two fields make up the word (spec/30_encoding.md R81). -/
theorem reservedField_append_opcodeField (w : Word32) : reservedField w ++ opcodeField w = w :=
  (join_fields w 0 28 4).trans BitVec.extractLsb'_eq_self

@[simp] theorem decodeWord_encode (i : Instr) : decodeWord (encode i) = .command i := by
  cases i <;> decide

/-- A word with no reserved bit set is the encoding of the command its opcode names. -/
theorem eq_encode_of_fields {w : Word32} {i : Instr} (hr : reservedField w = 0) (ho : opcodeField w = opcodeOf i) : w = encode i := by
  rw [← reservedField_append_opcodeField w, hr, ho]
  rfl

/-- Which word is which command, by its fields (spec/30_encoding.md R82, R85). -/
theorem decodeWord_eq_command_iff {w : Word32} {i : Instr} :
    decodeWord w = .command i ↔ reservedField w = 0 ∧ opcodeField w = opcodeOf i := by
  refine ⟨decodeWord_command, fun ⟨hr, ho⟩ => ?_⟩
  rw [eq_encode_of_fields hr ho, decodeWord_encode]

/-- The assigned opcodes are 0x1 to 0x4 (spec/30_encoding.md R82). -/
theorem exists_eq_opcodeOf_iff {x : BitVec 4} : (∃ i, x = opcodeOf i) ↔ 1 ≤ x.toNat ∧ x.toNat ≤ 4 := by
  constructor
  · rintro ⟨i, rfl⟩
    cases i <;> decide
  · rintro ⟨hlo, hhi⟩
    obtain h | h | h | h : x.toNat = 1 ∨ x.toNat = 2 ∨ x.toNat = 3 ∨ x.toNat = 4 := by omega
    · exact ⟨.init, BitVec.eq_of_toNat_eq h⟩
    · exact ⟨.compressBlock, BitVec.eq_of_toNat_eq h⟩
    · exact ⟨.finalize, BitVec.eq_of_toNat_eq h⟩
    · exact ⟨.getDigestSlice, BitVec.eq_of_toNat_eq h⟩

/-- A word is a command where no reserved bit is set and the opcode is assigned (spec/30_encoding.md R84). -/
theorem exists_decodeWord_eq_command_iff {w : Word32} :
    (∃ i, decodeWord w = .command i) ↔ reservedField w = 0 ∧ 1 ≤ (opcodeField w).toNat ∧ (opcodeField w).toNat ≤ 4 := by
  simp only [decodeWord_eq_command_iff, exists_and_left, exists_eq_opcodeOf_iff]

theorem exists_illegal_iff_not_exists_command {w : Word32} :
    (∃ why, decodeWord w = .illegal why) ↔ ¬ ∃ i, decodeWord w = .command i := by
  cases decodeWord w <;> simp

/-- Which words are illegal, by their fields (spec/30_encoding.md R84). -/
theorem exists_decodeWord_eq_illegal_iff {w : Word32} :
    (∃ why, decodeWord w = .illegal why) ↔ reservedField w ≠ 0 ∨ (opcodeField w).toNat = 0 ∨ 5 ≤ (opcodeField w).toNat := by
  rw [exists_illegal_iff_not_exists_command, exists_decodeWord_eq_command_iff, not_and_or]
  refine or_congr_right ?_
  omega

theorem commandWordWellFormed_iff {w : Word32} :
    commandWordWellFormed w = true ↔ reservedField w = 0 ∧ 1 ≤ (opcodeField w).toNat ∧ (opcodeField w).toNat ≤ 4 := by
  simp [commandWordWellFormed, reservedBitsClear, opcodeAssigned, reservedField, opcodeField]

/-- A table row of 32 bits holds a whole word (spec/30_encoding.md R80). -/
@[simp] theorem decodeTableWord_toNat (w : Word32) : decodeTableWord 32 w.toNat = (decodeWord w).instr? := by
  rw [decodeTableWord, if_pos le_rfl, tableWord, Nat.mod_eq_of_lt w.isLt, BitVec.ofNat_toNat, BitVec.setWidth_eq]

/-- Settles O3: a decoded word's two fields are those of its command's encoding, and well-formedness asks for the same fields. -/
theorem decodeEncodeAgree : Obligations.DecodeEncodeAgree := by
  refine ⟨fun i _ => ⟨decodeWord_encode i, ?_⟩, fun w i h => ?_, fun w => ?_⟩
  · rw [decodeTableWord_toNat, decodeWord_encode]
    rfl
  · obtain ⟨hr, ho⟩ := decodeWord_command h
    exact eq_encode_of_fields hr ho
  · exact commandWordWellFormed_iff.trans exists_decodeWord_eq_command_iff.symm

/-- Settles O2: by the two fields of the word. -/
theorem decodeSplitsAllWords : Obligations.DecodeSplitsAllWords := by
  refine fun w => ⟨fun i => ?_, exists_decodeWord_eq_illegal_iff⟩
  cases i <;> exact decodeWord_eq_command_iff

/-- Settles O1: each word by evaluation. -/
theorem decodeSampleWords : Obligations.DecodeSampleWords := by
  unfold Obligations.DecodeSampleWords
  decide

/-- An illegal word at CMD is recorded, and nothing else happens (spec/30_encoding.md R84). -/
theorem writeCommand_illegal {w : Word32} {why : IllegalWord} (h : decodeWord w = .illegal why) (s : State) :
    writeCommand w s = .next (raiseUsageError .illegalCmd w s) := by
  rw [writeCommand, h]

/-- Settles O7: the step is the write to CMD, and the word's fields make it illegal. -/
theorem illegalWordRaisesIllegalCmd : Obligations.IllegalWordRaisesIllegalCmd := by
  intro s w rest hturns hb hw
  obtain ⟨why, hd⟩ := exists_decodeWord_eq_illegal_iff.mpr hw
  rw [step_of_write hturns (by decide) (by decide), windowWrite_cmd w (s := { s with turns := rest }) hb, writeCommand_illegal hd]

end Sys2Proof.Machine
end

section
/-!
PROOFS. The host agent: what one line of a host script does, and WAIT as its two lines (spec/30_encoding.md R87, R88).
-/
namespace Sys2Proof.Machine

/-- A host that has not stopped runs the statement of its line. -/
theorem hostStep_of_line {a : HostAgent} {l : Line} (hf : a.failed = false) (hl : a.script[a.line]? = some l) (s : State) :
    hostStep a s = runStmt l.stmt a s := by
  simp [hostStep, hf, hl]

/-- A schedule that gives the host the first move. -/
theorem agentsRun_host {a a' : HostAgent} {s s' : State} (h : hostStep a s = .next (a', s')) (es : List Bool) :
    agentsRun (false :: es) a s = agentsRun es a' s' := by
  simp [agentsRun, agentsStep, h]

/-- `RD` of an offset that exists sets its name to the word there, and the host goes on to the next line (spec/30_encoding.md R87). -/
theorem hostStep_rd {off name : Nat} {label : Option Nat} {a : HostAgent} (hf : a.failed = false)
    (hl : a.script[a.line]? = some ⟨label, .rd off (some name)⟩) (h4 : off % 4 = 0) (hle : off ≤ 0x0FC) (s : State) :
    ∃ b, hostStep a s = .next (b, { s with reads := windowWord off s :: s.reads }) ∧ b.failed = false ∧ b.script = a.script ∧
      b.line = a.line + 1 ∧ lookupName name b.names = some (windowWord off s) := by
  refine ⟨nextLine { a with names := (name, windowWord off s) :: a.names }, ?_, hf, rfl, rfl, by simp [nextLine, lookupName]⟩
  rw [hostStep_of_line hf hl, runStmt, busAccess_read off s h4 hle]
  rfl

/-- `BNZ` of a name that is set and a label that stands on a line is a branch of the host's own (spec/30_encoding.md R87). -/
theorem hostStep_bnz {name label target : Nat} {mask v : Word32} {a : HostAgent} (hf : a.failed = false)
    (hl : a.script[a.line]? = some (plainLine (.bnz name mask label))) (hv : lookupName name a.names = some v)
    (ht : findLabel label a.script = some target) (s : State) :
    hostStep a s = .next (if v &&& mask = 0 then nextLine a else { a with line := target }, s) := by
  rw [hostStep_of_line hf hl, plainLine, runStmt, hv, ht]

/-- The mask of WAIT leaves BUSY of STATUS (spec/10_state.md R31). -/
theorem statusWord_and_one_eq_zero_iff (s : State) : statusWord s &&& 0x00000001 = 0 ↔ s.busy = false := by
  have hn := statusWord_toNat s
  rw [← BitVec.toNat_inj, BitVec.toNat_and, show (0x00000001 : Word32).toNat = 1 from rfl, Nat.and_one_is_mod,
    show (0 : Word32).toNat = 0 from rfl, ← Bool.toNat_eq_zero]
  have hb := Bool.toNat_le s.busy
  omega

/-- Settles O59: the first line names STATUS, and the second branches on its BUSY. -/
theorem waitGoesRoundWhileBusy : Obligations.WaitGoesRoundWhileBusy := by
  intro a s label name hf hrd hbnz hlabel
  obtain ⟨b, hread, hbf, hscript, hline, hname⟩ := hostStep_rd hf hrd (by decide) (by decide) s
  have hbranch := hostStep_bnz hbf (by rw [hscript, hline, hbnz]) hname (by rw [hscript, hlabel])
    { s with reads := statusWord s :: s.reads }
  refine ⟨_, (agentsRun_host hread _).trans (agentsRun_host hbranch []), ?_⟩
  rw [windowWord_status]
  cases hb : s.busy with
  | true =>
    rw [if_neg ((statusWord_and_one_eq_zero_iff s).not.mpr (by simp [hb]))]
    exact ⟨hbf, hscript, rfl⟩
  | false =>
    rw [if_pos ((statusWord_and_one_eq_zero_iff s).mpr hb)]
    exact ⟨hbf, hscript, congrArg (· + 1) hline⟩

end Sys2Proof.Machine
end

section
/-!
PROOFS. The functions of the datapath: the word operations and the logical functions, bit by bit (spec/40_datapath.md R100 to R108).
-/
namespace Sys2Proof.Machine

/-- The model's rotation is the library's. -/
theorem rotr_eq_rotateRight (x : Word64) {n : Nat} (hn : n < 64) : rotr x n = x.rotateRight n :=
  (BitVec.rotateRight_eq_rotateRightAux_of_lt hn).symm

/-- Bits shifted out at the right re-enter at the left (spec/40_datapath.md R100). -/
theorem getLsbD_rotr (x : Word64) {n i : Nat} (hn : n < 64) (hi : i < 64) : (rotr x n).getLsbD i = x.getLsbD ((i + n) % 64) := by
  rw [rotr_eq_rotateRight x hn, BitVec.getLsbD_rotateRight, Nat.mod_eq_of_lt hn]
  by_cases h : i < 64 - n
  · rw [decide_eq_true h, cond_true, Nat.mod_eq_of_lt (by omega), Nat.add_comm]
  · rw [decide_eq_false h, cond_false, decide_eq_true hi, Bool.true_and, show i - (64 - n) = (i + n) % 64 by omega]

/-- Zeros enter at the left (spec/40_datapath.md R101). -/
theorem getLsbD_shr (x : Word64) (n i : Nat) : (shr x n).getLsbD i = (decide (i + n < 64) && x.getLsbD (i + n)) := by
  rw [shr, BitVec.getLsbD_ushiftRight, Nat.add_comm n i]
  exact Bool.eq_and_self.mpr fun h => decide_eq_true (BitVec.lt_of_getLsbD h)

/-- Settles O31: the bits of each word operation, and the two examples by evaluation. -/
theorem rotrAndShrMoveBits : Obligations.RotrAndShrMoveBits := by
  refine ⟨fun x n i _ hn hi => ⟨getLsbD_rotr x (by omega) hi, getLsbD_shr x n i⟩, ?_, ?_⟩ <;> decide

/-- Settles O32: every rotation is the library's; the values at 0, at all ones and at 1 by evaluation. -/
theorem sigmaFunctions : Obligations.SigmaFunctions := by
  refine ⟨fun x => ?_, by decide⟩
  simp (disch := decide) only [bigSigma0, bigSigma1, smallSigma0, smallSigma1, rotr_eq_rotateRight, shr, and_self]

/-- `Ch` selects (spec/40_datapath.md R107). -/
theorem getLsbD_ch (x y z : Word64) {i : Nat} (hi : i < 64) :
    (ch x y z).getLsbD i = if x.getLsbD i then y.getLsbD i else z.getLsbD i := by
  rw [ch, BitVec.getLsbD_xor, BitVec.getLsbD_and, BitVec.getLsbD_and, BitVec.getLsbD_not, decide_eq_true hi]
  cases x.getLsbD i <;> simp

theorem getLsbD_maj (x y z : Word64) (i : Nat) :
    (maj x y z).getLsbD i = (x.getLsbD i && y.getLsbD i ^^ x.getLsbD i && z.getLsbD i ^^ y.getLsbD i && z.getLsbD i) := by
  rw [maj, BitVec.getLsbD_xor, BitVec.getLsbD_xor, BitVec.getLsbD_and, BitVec.getLsbD_and, BitVec.getLsbD_and]

/-- The XOR of the three pairs is the majority (spec/40_datapath.md R108). -/
theorem xor_pairs_eq_true_iff : ∀ a b c : Bool,
    ((a && b) ^^ (a && c) ^^ (b && c)) = true ↔ 2 ≤ (if a then 1 else 0) + (if b then 1 else 0) + (if c then 1 else 0) := by
  decide

/-- Settles O33: by the bits of each function. -/
theorem chSelectsAndMajTakesTheMajority : Obligations.ChSelectsAndMajTakesTheMajority := by
  refine fun x y z i hi => ⟨getLsbD_ch x y z hi, ?_⟩
  rw [getLsbD_maj]
  exact xor_pairs_eq_true_iff ..

end Sys2Proof.Machine
end

section
/-!
PROOFS. The constant tables: each word is the fraction of a root of a prime (spec/40_datapath.md R109, R110). With an integer part `c`
below 8 in front of it the word is the root itself, so that a table is checked by raising to the power; no root is computed.
-/
namespace Sys2Proof.Machine

/-- A word that an integer part completes to the `k`-th root of `N` is that root mod 2^64. -/
theorem exists_root_of_fraction {k N : Nat} {w : Word64}
    (h : ∃ c < 8, (c * 2 ^ 64 + w.toNat) ^ k ≤ N ∧ N < (c * 2 ^ 64 + w.toNat + 1) ^ k) :
    ∃ r : Nat, r ^ k ≤ N ∧ N < (r + 1) ^ k ∧ w.toNat = r % 2 ^ 64 := by
  obtain ⟨c, -, hle, hlt⟩ := h
  exact ⟨_, hle, hlt, (Nat.mul_add_mod_of_lt w.isLt).symm⟩

/-- Settles O34: the integer part of each square root is found among the numbers below 8. -/
theorem initialValuesAreSquareRoots : Obligations.InitialValuesAreSquareRoots := by
  refine fun px hpx => exists_root_of_fraction ?_
  revert px
  decide

/-- The test for a prime that the obligation on the round constants writes out: no number from 2 up to `p - 1` divides `p`. -/
def isPrimeByTrial (p : Nat) : Bool := decide (2 ≤ p) && (List.range p).all fun d => decide (d < 2) || decide (p % d ≠ 0)

theorem isPrimeByTrial_iff {p : Nat} : isPrimeByTrial p = true ↔ p.Prime := by
  simp only [isPrimeByTrial, Nat.prime_def_lt', Nat.dvd_iff_mod_eq_zero, Bool.and_eq_true, Bool.or_eq_true, List.all_eq_true,
    List.mem_range, decide_eq_true_eq, ← not_le, ← imp_iff_not_or]
  exact and_congr_right fun _ => forall_congr' fun _ => imp.swap

/-- The same test with the numbers from 2 up to `n` only. -/
def isPrimeByTrialUpTo (n p : Nat) : Bool :=
  decide (2 ≤ p) && (List.range (n + 1)).all fun d => decide (d < 2) || decide (p ≤ d) || decide (p % d ≠ 0)

/-- A composite number has a divisor no larger than its square root. -/
theorem isPrimeByTrialUpTo_iff {n p : Nat} (h : p < (n + 1) ^ 2) : isPrimeByTrialUpTo n p = true ↔ p.Prime := by
  simp only [isPrimeByTrialUpTo, Bool.and_eq_true, Bool.or_eq_true, List.all_eq_true, List.mem_range, decide_eq_true_eq,
    ne_eq, ← Nat.dvd_iff_mod_eq_zero]
  constructor
  · rintro ⟨h2, htrial⟩
    refine Nat.prime_def_le_sqrt.mpr ⟨h2, fun d hd hle => ?_⟩
    have hn : d < n + 1 := hle.trans_lt (Nat.sqrt_lt'.mpr h)
    have hp : d < p := hle.trans_lt (Nat.sqrt_lt_self h2)
    exact (htrial d hn).resolve_left (by omega)
  · intro hprime
    obtain ⟨h2, hdvd⟩ := Nat.prime_def_lt'.mp hprime
    refine ⟨h2, fun d _ => or_iff_not_imp_left.mpr fun hd => hdvd d ?_ ?_⟩ <;> omega

/-- The primes `p_0 = 2` to `p_79 = 409` (spec/40_datapath.md R110). -/
def primesTo409 : List Nat :=
  [2, 3, 5, 7, 11, 13, 17, 19, 23, 29, 31, 37, 41, 43, 47, 53, 59, 61, 67, 71, 73, 79, 83, 89, 97, 101, 103, 107, 109, 113, 127, 131,
    137, 139, 149, 151, 157, 163, 167, 173, 179, 181, 191, 193, 197, 199, 211, 223, 227, 229, 233, 239, 241, 251, 257, 263, 269, 271,
    277, 281, 283, 293, 307, 311, 313, 317, 331, 337, 347, 349, 353, 359, 367, 373, 379, 383, 389, 397, 401, 409]

/-- Below 21^2 the divisors up to 20 decide. -/
theorem filter_isPrimeByTrial : (List.range 410).filter isPrimeByTrial = primesTo409 := by
  have hcongr : ∀ p ∈ List.range 410, isPrimeByTrial p = isPrimeByTrialUpTo 20 p := fun p hp =>
    have hlt : p < (20 + 1) ^ 2 := (List.mem_range.mp hp).trans (by decide)
    Bool.eq_iff_iff.mpr (isPrimeByTrial_iff.trans (isPrimeByTrialUpTo_iff hlt).symm)
  rw [List.filter_congr hcongr]
  decide

/-- Settles O35: the integer part of each cube root is found among the numbers below 8. -/
theorem roundConstantsAreCubeRoots : Obligations.RoundConstantsAreCubeRoots := by
  have hprimes := filter_isPrimeByTrial
  unfold isPrimeByTrial at hprimes
  rw [Obligations.RoundConstantsAreCubeRoots, hprimes]
  refine ⟨rfl, rfl, fun px hpx => exists_root_of_fraction ?_⟩
  revert px
  decide

end Sys2Proof.Machine
end

section
/-!
PROOFS. INIT: accepted in every phase, and performed (spec/41_init.md R121, R122); and what every performed command leaves alone.
-/
namespace Sys2Proof.Machine

/-- With BUSY = 0 INIT is accepted, whatever the phase (spec/41_init.md R122). -/
theorem exec_init_idle {s : State} (hb : s.busy = false) : exec .init s = .next (acceptCommand .init s) := by
  rw [exec_idle .init s hb, issueCommand, checkCommand_init]

/-- STATUS after INIT performed, where no error is recorded: BUSY = 0 and FRESH (spec/41_init.md R122). -/
theorem statusWord_performInit {s : State} (herr : s.err = none) (hmulti : s.errMulti = false) :
    statusWord (performInit s) = 0x00000002 := by
  simp [statusWord, herr, hmulti, phaseCode, errField]

/-- Zeros stored over the whole of a canonical buffer leave every index reading 0. -/
theorem Memory.read_store_zeros {size : Nat} {m : Memory} (hwf : m.wf size = true) (a : Nat) :
    (m.store 0 (List.replicate size 0)).read a = 0 := by
  by_cases ha : a < size
  · have hread := Memory.read_store_inside (vs := List.replicate size 0) (a := 0) hwf (by simp) (by simpa using ha)
    rw [Nat.zero_add] at hread
    rw [hread, List.getD_replicate 0 ha]
  · have hle : size ≤ a := Nat.le_of_not_lt ha
    rw [Memory.read_store_other (.inr (by simpa using hle)), Memory.read_above hwf hle]

/-- INIT performed writes DOUT only below byte 64 (spec/41_init.md R121). -/
theorem performInit_dout_read_above (s : State) (a : Nat) (ha : 64 ≤ a) : (performInit s).dout.read a = s.dout.read a := by
  rw [performInit_dout, Memory.read_store_other (.inr (by simpa using ha))]

/-- GET_DIGEST_SLICE performed writes DOUT only below byte 64 (spec/44_digest.md R173). -/
theorem performGetDigestSlice_dout_read_above (s : State) (a : Nat) (ha : 64 ≤ a) :
    (performGetDigestSlice s).dout.read a = s.dout.read a := by
  rw [performGetDigestSlice_dout, Memory.read_store_other (.inr (by simpa using ha))]

/-- Settles O15: the perform part is the stated update, and the zeros it stores cover the whole of DOUT. -/
theorem initPerforms : Obligations.InitPerforms := fun s hb hwf =>
  ⟨s.dout.store 0 (List.replicate 64 0), exec_init_busy s hb, Memory.read_store_zeros hwf⟩

/-- Settles O20: which part ran, by the command; only INIT and GET_DIGEST_SLICE store in DOUT. -/
theorem performFrame : Obligations.PerformFrame := by
  intro i s t hb he
  rcases exec_busy_cases hb he with ⟨rfl, rfl⟩ | ⟨rfl, rfl⟩ | ⟨rfl, rfl⟩ | ⟨rfl, -, rfl⟩
  · simpa using performInit_dout_read_above s
  · simp
  · simp
  · simpa using performGetDigestSlice_dout_read_above s

/-- Settles O8: acceptance clears the error record, so STATUS shows only FRESH once INIT is performed. -/
theorem initIsAcceptedInEveryPhase : Obligations.InitIsAcceptedInEveryPhase := fun s hb =>
  ⟨acceptCommand .init s, performInit (acceptCommand .init s), exec_init_idle hb, acceptCommand_init s,
    exec_init_busy _ (acceptCommand_busy .init s), statusWord_performInit rfl rfl⟩

end Sys2Proof.Machine
end

section
/-!
PROOFS. The compression function: the 16 loaded and the 64 derived schedule words, the 80 rounds and the feed-forward
(spec/42_compress.md R130 to R135).
-/
namespace Sys2Proof.Machine

/-- Byte `b` of a packed word, counted from the most significant one (spec/00_scope.md R10). -/
theorem extractLsb'_be64 (bs : List Byte) (i : Nat) {b : Nat} (hb : b < 8) :
    (be64 bs i).extractLsb' (56 - 8 * b) 8 = byteAt bs (i + b) := by
  apply extractLsb'_eq_of_toNat
  simp only [be64, toNat_append_eq_add]
  have hfirst : (byteAt bs (i + 0)).toNat = (byteAt bs i).toNat := rfl
  interval_cases b <;> omega

/-- A derived word, seen from the front of the extended schedule: the recurrence (spec/42_compress.md R131). -/
theorem extendSchedule_getD_new : ∀ (n : Nat) (ws : List Word64) {k : Nat}, k < n →
    (extendSchedule n ws).getD k 0 =
      smallSigma1 ((extendSchedule n ws).getD (k + 2) 0) + (extendSchedule n ws).getD (k + 7) 0 +
        smallSigma0 ((extendSchedule n ws).getD (k + 15) 0) + (extendSchedule n ws).getD (k + 16) 0
  | n + 1, ws, k, hk => by
    rw [extendSchedule]
    obtain hlt | rfl := Nat.lt_succ_iff_lt_or_eq.mp hk
    · exact extendSchedule_getD_new n (nextScheduleWord ws :: ws) hlt
    · have hold := extendSchedule_getD_old k (nextScheduleWord ws :: ws)
      have hnext := hold 0
      rw [Nat.add_zero] at hnext
      rw [hnext, hold 2, hold 7, hold 15, hold 16]
      rfl

/-- The schedule is the extended list, oldest word first. -/
theorem schedule_getD (blk : List Byte) {t : Nat} (ht : t < 80) :
    (schedule blk).getD t 0 = (extendSchedule 64 (messageWords blk).reverse).getD (79 - t) 0 := by
  rw [schedule, List.getD_reverse _ (by simpa using ht)]
  simp

/-- The words loaded from the block (spec/42_compress.md R130). -/
theorem schedule_getD_loaded (blk : List Byte) {j : Nat} (hj : j < 16) : (schedule blk).getD j 0 = be64 blk (8 * j) := by
  rw [schedule_getD blk (by omega), show 79 - j = 64 + (15 - j) by omega, extendSchedule_getD_old,
    List.getD_reverse _ (by rw [messageWords_length]; omega), messageWords_length, show 16 - 1 - (15 - j) = j by omega,
    messageWords_getD blk hj]

/-- The words derived by the recurrence (spec/42_compress.md R131). -/
theorem schedule_getD_derived (blk : List Byte) {t : Nat} (h16 : 16 ≤ t) (ht : t < 80) :
    (schedule blk).getD t 0 =
      smallSigma1 ((schedule blk).getD (t - 2) 0) + (schedule blk).getD (t - 7) 0 +
        smallSigma0 ((schedule blk).getD (t - 15) 0) + (schedule blk).getD (t - 16) 0 := by
  have hback {d : Nat} (hd : d ≤ 16) :
      (schedule blk).getD (t - d) 0 = (extendSchedule 64 (messageWords blk).reverse).getD (79 - t + d) 0 := by
    rw [schedule_getD blk (by omega), show 79 - (t - d) = 79 - t + d by omega]
  simp (disch := decide) only [hback]
  rw [schedule_getD blk ht]
  exact extendSchedule_getD_new 64 _ (by omega)

/-- Settles O36: each of the first 16 words is packed from its eight bytes. -/
theorem messageLoadIsBigEndian : Obligations.MessageLoadIsBigEndian := by
  intro blk j b hj hb
  rw [schedule_getD_loaded blk hj, extractLsb'_be64 blk (8 * j) hb, byteAt]

/-- Settles O37: the recurrence for every block; the three example words by evaluation. -/
theorem scheduleRecurrence : Obligations.ScheduleRecurrence := by
  refine ⟨fun blk t => schedule_getD_derived blk, schedule_length, ?_⟩
  decide +kernel

/-- The rounds as one loop over the round number (spec/42_compress.md R133). -/
theorem compressRounds_eq_foldl : ∀ {n : Nat} {ks ws : List Word64} (v : Working), ks.length = n → ws.length = n →
    compressRounds ks ws v = (List.range n).foldl (fun u t => compressRound (ks.getD t 0) (ws.getD t 0) u) v
  | 0, [], [], _, _, _ => rfl
  | n + 1, k :: ks, w :: ws, v, hks, hws => by
    rw [compressRounds, compressRounds_eq_foldl (compressRound k w v) (Nat.succ.inj hks) (Nat.succ.inj hws),
      List.range_succ_eq_map, List.foldl_cons, List.foldl_map]
    rfl

/-- Settles O39: the eighty rounds are the loop over the round number, and the feed-forward adds word by word. -/
theorem compressIsEightyRounds : Obligations.CompressIsEightyRounds := by
  intro h blk
  refine ⟨_, rfl, ?_⟩
  rw [compress_eq, compressRounds_eq_foldl _ roundConstants_length (schedule_length blk), feedForward]

/-- Settles O38: a round and the start are the stated updates; the example of round 0 by evaluation. -/
theorem roundUpdate : Obligations.RoundUpdate :=
  ⟨fun _ _ _ => rfl, fun _ => rfl, by decide, by decide⟩

/-- Settles O40: by evaluation of the eighty rounds. -/
theorem compressPaddedAbc : Obligations.CompressPaddedAbc := by
  rw [Obligations.CompressPaddedAbc, compress_eq]
  decide +kernel

end Sys2Proof.Machine
end

section
/-!
PROOFS. COMPRESS_BLOCK: its issue checks and its perform part (spec/42_compress.md R137, R138).
-/
namespace Sys2Proof.Machine

/-- A command that fails its check raises that error, with its own word (spec/60_exceptions.md R202). -/
theorem exec_rejected {i : Instr} {s : State} {e : UsageError} (hb : s.busy = false) (hc : checkCommand i s = some e) :
    exec i s = .next (raiseUsageError e (encode i) s) := by
  rw [exec_idle i s hb, issueCommand, hc]

/-- A command other than INIT that passes its check sets BUSY and PENDING only (spec/70_reset_and_hazards.md R233). -/
theorem exec_accepted {i : Instr} {s : State} (hb : s.busy = false) (hi : i ≠ .init) (hc : checkCommand i s = none) :
    exec i s = .next { s with busy := true, pending := some i } := by
  rw [exec_idle i s hb, issueCommand, hc, acceptCommand_other i s hi]

/-- Before the first INIT every other command is NOT_INIT (spec/60_exceptions.md R202). -/
theorem checkCommand_uninit {i : Instr} {s : State} (hp : s.phase = .uninit) (hi : i ≠ .init) :
    checkCommand i s = some .notInit := by
  rw [checkCommand, if_pos ⟨hp, hi⟩]

/-- After FINALIZE no further bytes are taken in: AFTER_FINAL (spec/60_exceptions.md R202). -/
theorem checkCommand_final {i : Instr} {s : State} (hp : s.phase = .final) (hi : i = .compressBlock ∨ i = .finalize) :
    checkCommand i s = some .afterFinal := by
  simp [checkCommand, hp, hi]

/-- Settles O9: the check of COMPRESS_BLOCK, phase by phase. -/
theorem compressBlockIssueChecks : Obligations.CompressBlockIssueChecks := by
  intro s hb
  cases hp : s.phase with
  | uninit => exact exec_rejected hb (checkCommand_uninit hp (by decide))
  | fresh => rw [exec_accepted hb (by decide) (checkCommand_compressBlock_eq_none.mpr (.inl hp)), hp]
  | accum => rw [exec_accepted hb (by decide) (checkCommand_compressBlock_eq_none.mpr (.inr hp)), hp]
  | final => exact exec_rejected hb (checkCommand_final hp (.inl rfl))

/-- The bytes loaded are those at consecutive indexes. -/
theorem Memory.load_eq_map : ∀ (m : Memory) (a n : Nat), m.load a n = (List.range' a n).map m.read
  | _, _, 0 => rfl
  | m, a, n + 1 => congrArg (m.read a :: ·) (Memory.load_eq_map m (a + 1) n)

/-- The block COMPRESS_BLOCK reads is `BLOCK[0..127]` (spec/42_compress.md R136). -/
theorem blockOperand_eq_map (s : State) : blockOperand s = (List.range 128).map s.block.read := by
  rw [blockOperand, Memory.load_eq_map, List.range_eq_range']

/-- Settles O16: the perform part is the stated update of the 128 bytes of BLOCK. -/
theorem compressBlockPerforms : Obligations.CompressBlockPerforms := by
  intro s hb
  rw [exec_compressBlock_busy s hb, performCompressBlock, blockOperand_eq_map]

end Sys2Proof.Machine
end

section
/-!
PROOFS. The padding of the terminal call: the length field in both modes and the padding blocks (spec/43_finalize.md R152 to R154).
-/
namespace Sys2Proof.Machine

/-- A field of a field, by its place in the whole. -/
theorem extractLsb'_extractLsb'_of_add_le {w : Nat} (x : BitVec w) (a : Nat) {m b n : Nat} (h : b + n ≤ m) :
    (x.extractLsb' a m).extractLsb' b n = x.extractLsb' (a + b) n := by
  apply BitVec.eq_of_getLsbD_eq
  intro i hi
  have hm : b + i < m := by omega
  simp only [BitVec.getLsbD_extractLsb', hi, hm, decide_true, Bool.true_and, Nat.add_assoc]

/-- Byte `j` of a word's bytes, counted from the most significant one (spec/00_scope.md R10). -/
theorem be64bytes_getD (w : Word64) {j : Nat} (hj : j < 8) : (be64bytes w).getD j 0 = w.extractLsb' (56 - 8 * j) 8 := by
  interval_cases j <;> rfl

/-- Byte `j` of a 128-bit value's bytes, counted from the most significant one (spec/00_scope.md R10). -/
theorem be128bytes_getD (v : BitVec 128) {j : Nat} (hj : j < 16) :
    (be128bytes v).getD j 0 = v.extractLsb' (120 - 8 * j) 8 := by
  rw [be128bytes]
  by_cases hlow : j < 8
  · rw [List.getD_append _ _ _ _ hlow, be64bytes_getD _ hlow, extractLsb'_extractLsb'_of_add_le _ _ (by omega)]
    congr 1; omega
  · rw [List.getD_append_right _ _ _ _ (by simpa using hlow), be64bytes_length, be64bytes_getD _ (by omega),
      extractLsb'_extractLsb'_of_add_le _ _ (by omega)]
    congr 1; omega

/-- The bytes above a value's size are 0. -/
theorem be128bytes_getD_eq_zero {v : BitVec 128} {j : Nat} (hj : j < 16) (hv : v.toNat < 2 ^ (120 - 8 * j)) :
    (be128bytes v).getD j 0 = 0 := by
  rw [be128bytes_getD v hj]
  apply extractLsb'_eq_of_toNat
  rw [Nat.div_eq_of_lt hv]
  rfl

/-- EXACT as a number: the product does not wrap at 128 bits (spec/43_finalize.md R153). -/
theorem lenField_exact_toNat (total : Word64) : (lenField .exact total).toNat = total.toNat * 8 := by
  have htotal := total.isLt
  rw [lenField_exact, exactBitLength, BitVec.toNat_mul, BitVec.toNat_setWidth]
  simp only [BitVec.ofNat_eq_ofNat, BitVec.toNat_ofNat]
  omega

/-- WRAP64 as a number: the product modulo 2^64 (spec/43_finalize.md R153). -/
theorem lenField_wrap64_toNat (total : Word64) : (lenField .wrap64 total).toNat = total.toNat * 8 % 2 ^ 64 := by
  rw [lenField_wrap64, wrappedBitLength, BitVec.toNat_setWidth, BitVec.toNat_mul]
  simp only [BitVec.ofNat_eq_ofNat, BitVec.toNat_ofNat]
  omega

/-- Settles O42: both modes as numbers; a byte is 0 where the number lies below its place. -/
theorem lengthFieldModes : Obligations.LengthFieldModes := by
  intro total
  have htotal := total.isLt
  have hexact := lenField_exact_toNat total
  have hwrap := lenField_wrap64_toNat total
  refine ⟨hexact, by omega, hwrap, fun hsmall => ?_, fun j hj => ?_, ?_, fun j hj => ?_⟩
  · exact BitVec.eq_of_toNat_eq (by omega)
  · have hplace : 2 ^ 67 ≤ 2 ^ (120 - 8 * j) := Nat.pow_le_pow_right (by decide) (by omega)
    exact be128bytes_getD_eq_zero (by omega) (by omega)
  · rw [be128bytes_getD _ (by decide)]
    apply extractLsb'_eq_of_toNat
    rw [BitVec.toNat_setWidth, BitVec.extractLsb'_toNat, Nat.shiftRight_eq_div_pow]
    omega
  · have hplace : 2 ^ 64 ≤ 2 ^ (120 - 8 * j) := Nat.pow_le_pow_right (by decide) (by omega)
    exact be128bytes_getD_eq_zero (by omega) (by omega)

/-- A tail that leaves room for the 17 bytes is padded to one block (spec/43_finalize.md R154). -/
theorem padBlocks_of_le {tail : List Byte} (mode : LenFieldMode) (total : Word64) (h : tail.length ≤ 111) :
    padBlocks mode tail total =
      [tail ++ [0x80] ++ List.replicate (111 - tail.length) 0 ++ be128bytes (lenField mode total)] := by
  rw [padBlocks, if_pos h]

/-- A longer tail is padded to two (spec/43_finalize.md R154). -/
theorem padBlocks_of_gt {tail : List Byte} (mode : LenFieldMode) (total : Word64) (h : ¬ tail.length ≤ 111) :
    padBlocks mode tail total =
      [tail ++ [0x80] ++ List.replicate (127 - tail.length) 0, List.replicate 112 0 ++ be128bytes (lenField mode total)] := by
  rw [padBlocks, if_neg h]

/-- The padding blocks joined are the padded message (spec/43_finalize.md R152). -/
theorem padBlocks_flatten (mode : LenFieldMode) {tail : List Byte} (total : Word64) (htail : tail.length ≤ 127) :
    (padBlocks mode tail total).flatten =
      tail ++ [0x80] ++ List.replicate ((239 - tail.length) % 128) 0 ++ be128bytes (lenField mode total) := by
  by_cases h : tail.length ≤ 111
  · rw [padBlocks_of_le mode total h, List.flatten_singleton, show (239 - tail.length) % 128 = 111 - tail.length by omega]
  · rw [padBlocks_of_gt mode total h, show (239 - tail.length) % 128 = 127 - tail.length + 112 by omega, List.replicate_add]
    simp only [List.flatten_cons, List.flatten_nil, List.append_nil, List.append_assoc]

/-- How many padding blocks there are (spec/43_finalize.md R154). -/
theorem length_padBlocks (mode : LenFieldMode) (tail : List Byte) (total : Word64) :
    (padBlocks mode tail total).length = if tail.length ≤ 111 then 1 else 2 := by
  split
  · next h => rw [padBlocks_of_le mode total h, List.length_singleton]
  · next h => rw [padBlocks_of_gt mode total h]; rfl

/-- Settles O41: one block up to 111 tail bytes, else two whose zero bytes join. -/
theorem padBlocksAreThePaddedMessage : Obligations.PadBlocksAreThePaddedMessage := fun mode tail total htail =>
  ⟨padBlocks_flatten mode total htail, length_padBlocks mode tail total, padBlocks_length_eq mode tail total htail⟩

end Sys2Proof.Machine
end

section
/-!
PROOFS. FINALIZE: its issue checks, its perform part, what that part reads of BLOCK, and the digest of the empty message
(spec/43_finalize.md R150, R151, R156, R157, R159).
-/
namespace Sys2Proof.Machine

/-- Blocks compressed in order, as the library's fold (spec/43_finalize.md R156). -/
theorem compressAll_eq_foldl : ∀ (h : ChainingValue) (blks : List (List Byte)), compressAll h blks = blks.foldl compress h
  | _, [] => rfl
  | h, blk :: blks => compressAll_eq_foldl (compress h blk) blks

/-- The tail has TOTAL_SIZE mod 128 bytes (spec/43_finalize.md R150). -/
theorem tailLength_eq_mod (total : Word64) : tailLength total = total.toNat % 128 := by
  rw [tailLength, BitVec.extractLsb'_toNat, Nat.shiftRight_zero]

/-- The tail FINALIZE reads is the first TOTAL_SIZE mod 128 bytes of BLOCK (spec/43_finalize.md R151). -/
theorem tailOperand_eq_map (s : State) : tailOperand s = (List.range (s.totalSize.toNat % 128)).map s.block.read := by
  rw [tailOperand, Memory.load_eq_map, tailLength_eq_mod, List.range_eq_range']

/-- Settles O17: the perform part is the stated update, the blocks folded in order. -/
theorem finalizePerforms : Obligations.FinalizePerforms := by
  intro s hb
  rw [exec_finalize_busy s hb, performFinalize, compressAll_eq_foldl, tailOperand_eq_map]

/-- FINALIZE performed reads of BLOCK only the tail (spec/43_finalize.md R151). -/
theorem performFinalize_with_block {s : State} {b : Memory} (hread : ∀ k, k < s.totalSize.toNat % 128 → b.read k = s.block.read k) :
    performFinalize { s with block := b } = { performFinalize s with block := b } := by
  have htail : tailOperand { s with block := b } = tailOperand s :=
    Memory.load_congr fun k _ hk => hread k (by rwa [Nat.zero_add, tailLength_eq_mod] at hk)
  rw [performFinalize, htail, performFinalize]

/-- Settles O43: the perform part reads BLOCK through the tail alone. -/
theorem bytesPastTheTailAreIgnored : Obligations.BytesPastTheTailAreIgnored := by
  intro s t b hb hread he
  rw [exec_finalize_busy s hb] at he
  obtain rfl := Host.Outcome.next.inj he
  rw [← performFinalize_with_block hread]
  exact exec_finalize_busy { s with block := b } hb

/-- Settles O10: the check of FINALIZE, phase by phase. -/
theorem finalizeIssueChecks : Obligations.FinalizeIssueChecks := by
  intro s hb
  cases hp : s.phase with
  | uninit => exact exec_rejected hb (checkCommand_uninit hp (by decide))
  | fresh => rw [exec_accepted hb (by decide) (checkCommand_finalize_eq_none.mpr (.inl hp)), hp]
  | accum => rw [exec_accepted hb (by decide) (checkCommand_finalize_eq_none.mpr (.inr hp)), hp]
  | final => exact exec_rejected hb (checkCommand_final hp (.inr rfl))

/-- Before the first byte the tail is empty. -/
theorem tailOperand_of_totalSize_zero {s : State} (h : s.totalSize = 0) : tailOperand s = [] := by
  rw [tailOperand, h]
  rfl

/-- The empty message is padded to one block, the same in both modes (spec/43_finalize.md R159). -/
theorem padBlocks_empty (mode : LenFieldMode) : padBlocks mode [] 0 = [0x80 :: List.replicate 127 0] := by
  cases mode <;> decide

/-- That block compressed from IV gives the digest of the empty message (spec/90_conflicts.md C1). -/
theorem compress_padded_empty :
    compress iv (0x80 :: List.replicate 127 0) =
      { h0 := 0xcf83e1357eefb8bd, h1 := 0xf1542850d66d8007, h2 := 0xd620e4050b5715dc, h3 := 0x83f4a921d36ce9ce,
        h4 := 0x47d0d13c5d85f2b0, h5 := 0xff8318d2877eec2f, h6 := 0x63b931bd47417a81, h7 := 0xa538327af927da3e } := by
  rw [compress_eq]
  decide +kernel

/-- Settles O44: the tail is empty, so one block of padding is compressed from IV. -/
theorem finalizeEmptyMessage : Obligations.FinalizeEmptyMessage := by
  intro s hb hiv htotal
  refine ⟨performFinalize s, exec_finalize_busy s hb, ?_⟩
  rw [performFinalize_h, hiv, tailOperand_of_totalSize_zero htotal, htotal, padBlocks_empty, compressAll, compressAll]
  exact compress_padded_empty

end Sys2Proof.Machine
end

section
/-!
PROOFS. GET_DIGEST_SLICE: the digest serializer, the issue checks, the perform part, and what joined slices show
(spec/44_digest.md R170, R172, R173, R176).
-/
namespace Sys2Proof.Machine

/-- The range rule as a sum of numbers (spec/44_digest.md R172). -/
theorem sliceInRange_eq_true_iff {s : State} : sliceInRange s = true ↔ s.sliceOffset.toNat + s.sliceLen.toNat ≤ 64 :=
  decide_eq_true_iff

theorem sliceInRange_eq_false_iff {s : State} : sliceInRange s = false ↔ 64 < s.sliceOffset.toNat + s.sliceLen.toNat := by
  rw [← Bool.not_eq_true, sliceInRange_eq_true_iff, Nat.not_le]

/-- Before FINALIZE there is no digest to show: NOT_FINAL (spec/60_exceptions.md R202). -/
theorem checkCommand_getDigestSlice_notFinal {s : State} (hp : s.phase = .fresh ∨ s.phase = .accum) :
    checkCommand .getDigestSlice s = some .notFinal := by
  rcases hp with hp | hp <;> simp [checkCommand, hp]

/-- In FINAL a slice that runs past the digest is RANGE (spec/44_digest.md R172). -/
theorem checkCommand_getDigestSlice_range {s : State} (hp : s.phase = .final)
    (hr : 64 < s.sliceOffset.toNat + s.sliceLen.toNat) : checkCommand .getDigestSlice s = some .range := by
  simp [checkCommand, hp, sliceInRange_eq_false_iff.mpr hr]

/-- Settles O11: the check of GET_DIGEST_SLICE, phase by phase, and in FINAL by the range rule. -/
theorem getDigestSliceIssueChecks : Obligations.GetDigestSliceIssueChecks := by
  intro s hb
  cases hp : s.phase with
  | uninit => exact exec_rejected hb (checkCommand_uninit hp (by decide))
  | fresh => exact exec_rejected hb (checkCommand_getDigestSlice_notFinal (.inl hp))
  | accum => exact exec_rejected hb (checkCommand_getDigestSlice_notFinal (.inr hp))
  | final =>
    dsimp only
    split
    · next hr => exact exec_rejected hb (checkCommand_getDigestSlice_range hp hr)
    · next hr =>
      rw [exec_accepted hb (by decide) (checkCommand_getDigestSlice_eq_none.mpr ⟨hp, Nat.le_of_not_lt hr⟩), hp]

/-- Settles O19: performing a slice that breaks the range rule is a fault. -/
theorem sliceOutOfRangeStops : Obligations.SliceOutOfRangeStops := fun s hb hr =>
  exec_getDigestSlice_outOfRange s hb (sliceInRange_eq_false_iff.mpr hr)

/-- Settles O45: packing the digest bytes gives the words back, and a packed word shows its bytes. -/
theorem serializeIsBigEndian : Obligations.SerializeIsBigEndian := by
  intro h i j _ hj
  refine ⟨serialize_length h, ?_⟩
  rw [← be64_flatMap_be64bytes, extractLsb'_be64 _ _ hj, byteAt, serialize]

/-- Byte `k` of DOUT after GET_DIGEST_SLICE performed: the slice, then zeros (spec/44_digest.md R173). -/
theorem performGetDigestSlice_dout_read {s : State} (hwf : s.dout.wf 64 = true) {k : Nat} (hk : k < 64) :
    (performGetDigestSlice s).dout.read k =
      if k < s.sliceLen.toNat then byteAt (serialize s.h) (s.sliceOffset.toNat + k) else 0 := by
  have hread := Memory.read_store_inside (vs := sliceBytes s.h s.sliceOffset.toNat s.sliceLen.toNat) (a := 0) hwf (by simp)
    (by simpa using hk)
  rw [Nat.zero_add] at hread
  rw [performGetDigestSlice_dout, hread, sliceBytes_getD _ _ _ _ hk]

/-- Settles O18: the perform part is the stated update, and it stores the 64 bytes of the slice at the start of DOUT. -/
theorem getDigestSlicePerforms : Obligations.GetDigestSlicePerforms := by
  intro s hb hwf hr
  refine ⟨(performGetDigestSlice s).dout, ?_, fun _ => performGetDigestSlice_dout_read hwf,
    performGetDigestSlice_dout_read_above s⟩
  rw [exec_getDigestSlice_busy s hb (sliceInRange_eq_true_iff.mpr hr), performGetDigestSlice]

/-- The bytes DOUT shows after GET_DIGEST_SLICE performed are those of the digest at SLICE_OFFSET (spec/44_digest.md R173). -/
theorem performGetDigestSlice_dout_load {s : State} (hwf : s.dout.wf 64 = true)
    (hr : s.sliceOffset.toNat + s.sliceLen.toNat ≤ 64) :
    (performGetDigestSlice s).dout.load 0 s.sliceLen.toNat =
      ((serialize s.h).drop s.sliceOffset.toNat).take s.sliceLen.toNat := by
  apply List.ext_getElem
  · rw [Memory.load_length, List.length_take, List.length_drop, serialize_length]
    omega
  · intro k hload _
    have hk : k < s.sliceLen.toNat := by simpa using hload
    rw [List.getElem_take, List.getElem_drop, ← List.getD_eq_getElem _ 0, ← List.getD_eq_getElem _ 0, Memory.load_getD hk,
      Nat.zero_add, performGetDigestSlice_dout_read hwf (by omega), if_pos hk, byteAt]

/-- The bytes the host can read once GET_DIGEST_SLICE is performed, whatever its operands were (spec/44_digest.md R173). -/
theorem exec_getDigestSlice_shows {s t : State} (he : exec .getDigestSlice s = .next t) (hb : s.busy = true)
    (hwf : s.dout.wf 64 = true) :
    t.dout.load 0 t.doutLen.toNat = ((serialize s.h).drop s.sliceOffset.toNat).take s.sliceLen.toNat := by
  rcases exec_busy_cases hb he with ⟨⟨⟩, _⟩ | ⟨⟨⟩, _⟩ | ⟨⟨⟩, _⟩ | ⟨-, hr, rfl⟩
  rw [performGetDigestSlice_doutLen, performGetDigestSlice_dout_load hwf (sliceInRange_eq_true_iff.mp hr)]

/-- Settles O46: each slice shows its part of the digest, and the two parts join at `b`. -/
theorem sliceComposition : Obligations.SliceComposition := by
  intro s t1 t2 t a b hb hwf hab hb64 he1 he2 he
  have hnat {n : Nat} (hn : n ≤ 64) : (BitVec.ofNat 32 n).toNat = n := Nat.mod_eq_of_lt (by omega)
  have hshown1 := exec_getDigestSlice_shows he1 hb hwf
  have hshown2 := exec_getDigestSlice_shows he2 hb hwf
  have hwhole : t.dout.load 0 t.doutLen.toNat = ((serialize s.h).drop 0).take 64 := exec_getDigestSlice_shows he hb hwf
  rw [hnat (by omega), hnat (by omega)] at hshown1 hshown2
  have hrest : ((serialize s.h).drop b).take (64 - b) = ((serialize s.h).drop a).drop (b - a) := by
    rw [List.drop_drop, Nat.add_sub_cancel' hab, List.take_of_length_le (by simp)]
  rw [hshown1, hshown2, hwhole, hrest, List.take_append_drop, List.drop_zero, List.take_of_length_le (by simp)]

end Sys2Proof.Machine
end

section
/-!
PROOFS. Outcomes whose next state is seen through a function, and the state with its error record erased: what the checks, the window and
the commands do does not depend on that record (spec/60_exceptions.md R204, R205).
-/
namespace Sys2Proof.Machine

/-- The same outcome, with a function applied to its next state. -/
def mapNext {σ τ φ ρ : Type} (f : σ → τ) : Host.Outcome σ φ ρ → Host.Outcome τ φ ρ
  | .next s => .next (f s)
  | .fault r => .fault r
  | .refused r => .refused r

@[simp] theorem mapNext_next {σ τ φ ρ : Type} (f : σ → τ) (s : σ) :
    mapNext f (.next s : Host.Outcome σ φ ρ) = .next (f s) := rfl

theorem mapNext_eq_next_iff {σ τ φ ρ : Type} {f : σ → τ} {o : Host.Outcome σ φ ρ} {y : τ} :
    mapNext f o = .next y ↔ ∃ x, o = .next x ∧ f x = y := by
  cases o <;> simp [mapNext]

theorem mapNext_eq_fault_iff {σ τ φ ρ : Type} {f : σ → τ} {o : Host.Outcome σ φ ρ} {r : φ} :
    mapNext f o = .fault r ↔ o = .fault r := by
  cases o <;> simp [mapNext]

theorem mapNext_mapNext {σ τ υ φ ρ : Type} (g : τ → υ) (f : σ → τ) (o : Host.Outcome σ φ ρ) :
    mapNext g (mapNext f o) = mapNext (fun x => g (f x)) o := by
  cases o <;> rfl

/-- The state with no error recorded or logged, and without the words read, which may show an error. -/
def State.eraseErrorRecord (s : State) : State := { s with err := none, errMulti := false, errInfo := 0, errLog := [], reads := [] }

@[simp] theorem eraseErrorRecord_busy (s : State) : s.eraseErrorRecord.busy = s.busy := rfl
@[simp] theorem eraseErrorRecord_eraseErrorRecord (s : State) : s.eraseErrorRecord.eraseErrorRecord = s.eraseErrorRecord := rfl

/-- Two states differ only in the error record where they agree once it is erased. -/
theorem sameButErrorRecord_iff {s s' : State} : SameButErrorRecord s s' ↔ s'.eraseErrorRecord = s.eraseErrorRecord := by
  refine ⟨fun h => ?_, fun h => ?_⟩
  · rw [h]; rfl
  · cases s
    cases s'
    simp_all [SameButErrorRecord, State.eraseErrorRecord]

/-- A usage error is seen in the error record alone (spec/60_exceptions.md R204). -/
@[simp] theorem eraseErrorRecord_raiseUsageError (e : UsageError) (w : Word32) (s : State) :
    (raiseUsageError e w s).eraseErrorRecord = s.eraseErrorRecord := by
  obtain he | ⟨d, he⟩ := Option.eq_none_or_eq_some s.err
  · rw [raiseUsageError_first e w s he]; rfl
  · rw [raiseUsageError_later e d w s he]; rfl

theorem eraseErrorRecord_acceptCommand (i : Instr) (s : State) :
    (acceptCommand i s.eraseErrorRecord).eraseErrorRecord = (acceptCommand i s).eraseErrorRecord := by
  by_cases hi : i = .init
  · subst hi; rfl
  · rw [acceptCommand_other i _ hi, acceptCommand_other i _ hi]; rfl

/-- The checks do not read the error record (spec/60_exceptions.md R205). -/
theorem eraseErrorRecord_issueCommand (i : Instr) (s : State) :
    (issueCommand i s.eraseErrorRecord).eraseErrorRecord = (issueCommand i s).eraseErrorRecord := by
  have hcheck : checkCommand i s.eraseErrorRecord = checkCommand i s := checkCommand_congr i rfl rfl rfl
  unfold issueCommand
  rw [hcheck]
  cases checkCommand i s with
  | none => exact eraseErrorRecord_acceptCommand i s
  | some e => simp

/-- No performed command reads the error record. -/
theorem exec_busy_eraseErrorRecord {i : Instr} {s : State} (hb : s.busy = true) :
    mapNext State.eraseErrorRecord (exec i s.eraseErrorRecord) = mapNext State.eraseErrorRecord (exec i s) := by
  cases i with
  | init =>
    rw [exec_init_busy s hb, exec_init_busy s.eraseErrorRecord hb]
    simp only [mapNext_next, performInit, State.eraseErrorRecord]
  | compressBlock =>
    rw [exec_compressBlock_busy s hb, exec_compressBlock_busy s.eraseErrorRecord hb]
    simp only [mapNext_next, performCompressBlock, State.eraseErrorRecord, blockOperand]
  | finalize =>
    rw [exec_finalize_busy s hb, exec_finalize_busy s.eraseErrorRecord hb]
    simp only [mapNext_next, performFinalize, State.eraseErrorRecord, tailOperand]
  | getDigestSlice =>
    cases hr : sliceInRange s with
    | true =>
      rw [exec_getDigestSlice_busy s hb hr, exec_getDigestSlice_busy s.eraseErrorRecord hb hr]
      simp only [mapNext_next, performGetDigestSlice, State.eraseErrorRecord]
    | false => rw [exec_getDigestSlice_outOfRange s hb hr, exec_getDigestSlice_outOfRange s.eraseErrorRecord hb hr]

theorem exec_eraseErrorRecord (i : Instr) (s : State) :
    mapNext State.eraseErrorRecord (exec i s.eraseErrorRecord) = mapNext State.eraseErrorRecord (exec i s) := by
  cases hb : s.busy with
  | true => exact exec_busy_eraseErrorRecord hb
  | false =>
    rw [exec_idle i s hb, exec_idle i s.eraseErrorRecord hb]
    exact congrArg Host.Outcome.next (eraseErrorRecord_issueCommand i s)

theorem writeCommand_eraseErrorRecord (w : Word32) (s : State) :
    mapNext State.eraseErrorRecord (writeCommand w s.eraseErrorRecord) = mapNext State.eraseErrorRecord (writeCommand w s) := by
  unfold writeCommand
  cases decodeWord w with
  | command i => exact exec_eraseErrorRecord i s
  | illegal why => simp

theorem windowWrite_eraseErrorRecord (off : Nat) (v : Word32) (s : State) :
    mapNext State.eraseErrorRecord (windowWrite off v s.eraseErrorRecord) =
      mapNext State.eraseErrorRecord (windowWrite off v s) := by
  cases hb : s.busy with
  | true =>
    rw [windowWrite_busy off v hb, windowWrite_busy off v (s := s.eraseErrorRecord) hb]
    simp
  | false =>
    by_cases hcmd : off = 0x090
    · subst hcmd
      rw [windowWrite_cmd v hb, windowWrite_cmd v (s := s.eraseErrorRecord) hb]
      exact writeCommand_eraseErrorRecord v s
    · simp only [windowWrite, eraseErrorRecord_busy, hb, Bool.false_eq_true, if_false, if_neg hcmd]
      split_ifs <;> rfl

/-- A read may show the error record, but only to the host. -/
theorem busAccess_eraseErrorRecord (a : Access) (s : State) :
    mapNext State.eraseErrorRecord (busAccess a s.eraseErrorRecord) = mapNext State.eraseErrorRecord (busAccess a s) := by
  cases a with
  | read width off =>
    simp only [busAccess]
    split_ifs <;> rfl
  | write width off v =>
    simp only [busAccess]
    split_ifs
    · exact windowWrite_eraseErrorRecord off v s
    · rfl

theorem engineStep_eraseErrorRecord (s : State) :
    mapNext State.eraseErrorRecord (engineStep s.eraseErrorRecord) = mapNext State.eraseErrorRecord (engineStep s) := by
  cases hb : s.busy with
  | false => rw [engineStep_idle s hb, engineStep_idle s.eraseErrorRecord hb]; rfl
  | true =>
    obtain hp | ⟨i, hp⟩ := Option.eq_none_or_eq_some s.pending
    · rw [engineStep_noPending hb hp, engineStep_noPending (s := s.eraseErrorRecord) hb hp]
    · rw [engineStep_busy s i hb hp, engineStep_busy s.eraseErrorRecord i hb hp]
      exact exec_busy_eraseErrorRecord hb

/-- Erasing the error record before a step changes nothing but that record after it (spec/60_exceptions.md R205). -/
theorem step_eraseErrorRecord (s : State) :
    mapNext State.eraseErrorRecord (step s.eraseErrorRecord) = mapNext State.eraseErrorRecord (step s) := by
  cases hturns : s.turns with
  | nil =>
    rw [step_of_no_turns s hturns, step_of_no_turns s.eraseErrorRecord hturns]
    exact engineStep_eraseErrorRecord s
  | cons u rest =>
    rw [step_of_turn s u rest hturns, step_of_turn s.eraseErrorRecord u rest hturns]
    cases u with
    | host a => exact busAccess_eraseErrorRecord a { s with turns := rest }
    | engine => exact engineStep_eraseErrorRecord { s with turns := rest }
    | reset => rfl

/-- Settles O54: both states take the step of one erased state, up to the error record. -/
theorem errorRecordDoesNotSteer : Obligations.ErrorRecordDoesNotSteer := by
  intro s s' hs
  have hstep : mapNext State.eraseErrorRecord (step s') = mapNext State.eraseErrorRecord (step s) := by
    rw [← step_eraseErrorRecord s', sameButErrorRecord_iff.mp hs, step_eraseErrorRecord s]
  refine ⟨fun t ht => ?_, fun r hr => ?_⟩
  · rw [ht] at hstep
    obtain ⟨t', ht', herase⟩ := mapNext_eq_next_iff.mp hstep
    exact ⟨t', ht', sameButErrorRecord_iff.mpr herase⟩
  · rw [hr] at hstep
    exact mapNext_eq_fault_iff.mp hstep

end Sys2Proof.Machine
end

section
/-!
PROOFS. The error record: what raising an error writes, which errors a write can raise, and what clears them
(spec/60_exceptions.md R202 to R206).
-/
namespace Sys2Proof.Machine

/-- The error field of STATUS (spec/10_state.md R32). -/
theorem statusWord_errField (s : State) : (statusWord s).extractLsb' 8 4 = errField s.err := by
  obtain ⟨-, -, -, herr, -⟩ := statusLayout s
  rw [herr]
  rcases s.err with _ | e
  · rfl
  · cases e <;> rfl

/-- Code 0 is no error (spec/60_exceptions.md R201). -/
theorem errField_eq_zero_iff {r : Option UsageError} : errField r = 0 ↔ r = none := by
  rcases r with _ | e
  · simp [errField]
  · cases e <;> decide

/-- ERR_MULTI in STATUS (spec/10_state.md R32). -/
theorem statusWord_errMulti (s : State) : (statusWord s).getLsbD 12 = s.errMulti := by
  obtain ⟨-, -, -, -, hmulti, -⟩ := statusLayout s
  exact hmulti

/-- Settles O12: the first error is written, a later one only sets ERR_MULTI. -/
theorem firstErrorIsKept : Obligations.FirstErrorIsKept := by
  intro e w s
  simp only [statusWord_errField, statusWord_errMulti, errField_eq_zero_iff, ne_eq]
  refine ⟨fun hnone => ?_, fun hsome => ?_, sameButErrorRecord_iff.mpr (eraseErrorRecord_raiseUsageError e w s),
    raiseUsageError_reads e w s⟩
  · obtain ⟨herr, hrest⟩ := raiseUsageError_shows_first e w s hnone
    exact ⟨congrArg errField herr, hrest⟩
  · obtain ⟨d, hd⟩ := Option.ne_none_iff_exists'.mp hsome
    obtain ⟨herr, hrest⟩ := raiseUsageError_shows_later e d w s hd
    exact ⟨congrArg errField (herr.trans hd.symm), hrest⟩

/-- Acceptance of a command other than INIT leaves the error record alone (spec/60_exceptions.md R206). -/
theorem acceptCommand_errorRecord {i : Instr} (hi : i ≠ .init) (s : State) :
    (acceptCommand i s).err = s.err ∧ (acceptCommand i s).errMulti = s.errMulti ∧ (acceptCommand i s).errInfo = s.errInfo := by
  rw [acceptCommand_other i s hi]
  exact ⟨rfl, rfl, rfl⟩

/-- Settles O14: a rejected command raises an error, an accepted one sets BUSY and PENDING; only INIT clears the error record. -/
theorem issueFrame : Obligations.IssueFrame := by
  intro i s t hb he
  rw [exec_idle i s hb] at he
  obtain rfl := Host.Outcome.next.inj he
  rcases issueCommand_cases i s with ⟨e, -, ht⟩ | ⟨-, ht⟩
  · simp [ht, hb]
  · simpa [ht] using fun hi => acceptCommand_errorRecord (i := i) hi s

/-- Where each error of the checks is raised (spec/60_exceptions.md R202). -/
theorem checkCommand_rejects {i : Instr} {s : State} {e : UsageError} (h : checkCommand i s = some e) :
    e = .notInit ∧ s.phase = .uninit ∧ i ≠ .init ∨
      e = .afterFinal ∧ s.phase = .final ∧ (i = .compressBlock ∨ i = .finalize) ∨
      e = .notFinal ∧ (s.phase = .fresh ∨ s.phase = .accum) ∧ i = .getDigestSlice ∨
      e = .range ∧ s.phase = .final ∧ i = .getDigestSlice ∧ 64 < s.sliceOffset.toNat + s.sliceLen.toNat := by
  unfold checkCommand at h
  split_ifs at h with hinit hfinal hnot hrange <;> obtain rfl := Option.some.inj h
  · exact .inl ⟨rfl, hinit⟩
  · exact .inr (.inl ⟨rfl, hfinal⟩)
  · exact .inr (.inr (.inl ⟨rfl, hnot⟩))
  · obtain ⟨rfl, hr⟩ := hrange
    refine .inr (.inr (.inr ⟨rfl, ?_, rfl, sliceInRange_eq_false_iff.mp hr⟩))
    cases hp : s.phase <;> simp_all

/-- A command word is its command's encoding (spec/30_encoding.md R85). -/
theorem eq_encode_of_decodeWord {w : Word32} {i : Instr} (h : decodeWord w = .command i) : w = encode i := by
  obtain ⟨hr, ho⟩ := decodeWord_command h
  exact eq_encode_of_fields hr ho

/-- Settles O27, by what the write is: only a CMD write is checked, and each of its outcomes is the one its check names. -/
theorem oneErrorPerWriteInPriorityOrder : Obligations.OneErrorPerWriteInPriorityOrder := by
  intro s t off v hw
  rcases windowWrite_cases hw with
    ⟨hb, rfl⟩ | ⟨hb, ⟨hoff, rfl⟩ | ⟨rfl, rfl⟩ | ⟨rfl, rfl⟩ | ⟨rfl, rfl⟩ | ⟨rfl, rfl⟩ | ⟨rfl, i, hd, rfl⟩ |
      ⟨rfl, ⟨why, hd⟩, rfl⟩ | ⟨hoff, rfl⟩⟩
  · exact .inr ⟨.busyWrite, BitVec.ofNat 32 off, raiseUsageError_errLog .., raiseUsageError_busy .., raiseUsageError_pending ..,
      raiseUsageError_shows_first _ _ s, fun _ => ⟨rfl, rfl⟩, by simp [hb], by simp [hb], by simp [hb]⟩
  · exact .inl ⟨rfl, hb, by omega⟩
  · exact .inl ⟨rfl, hb, by omega⟩
  · exact .inl ⟨rfl, hb, by omega⟩
  · exact .inl ⟨rfl, hb, by omega⟩
  · exact .inl ⟨rfl, hb, by omega⟩
  · rcases issueCommand_cases i s with ⟨e, hc, ht⟩ | ⟨hc, ht⟩ <;> rw [ht]
    · refine .inr ⟨e, encode i, raiseUsageError_errLog .., raiseUsageError_busy .., raiseUsageError_pending ..,
        raiseUsageError_shows_first _ _ s, by simp [hb], fun _ => ⟨rfl, (eq_encode_of_decodeWord hd).symm⟩, by simp [hd],
        fun _ j hj => ?_⟩
      obtain rfl := Decoded.command.inj (hd.symm.trans hj)
      exact checkCommand_rejects hc
    · refine .inl ⟨acceptCommand_errLog i s, hb, fun _ => ⟨i, hd, acceptCommand_busy i s, acceptCommand_pending i s, ?_⟩⟩
      cases i with
      | init => trivial
      | compressBlock => exact checkCommand_compressBlock_eq_none.mp hc
      | finalize => exact checkCommand_finalize_eq_none.mp hc
      | getDigestSlice => exact checkCommand_getDigestSlice_eq_none.mp hc
  · exact .inr ⟨.illegalCmd, v, raiseUsageError_errLog .., raiseUsageError_busy .., raiseUsageError_pending ..,
      raiseUsageError_shows_first _ _ s, by simp [hb], fun _ => ⟨rfl, rfl⟩, fun _ _ => rfl, by simp [hd]⟩
  · exact .inl ⟨rfl, hb, by omega⟩

/-- A recorded error, its ERR_INFO and a set ERR_MULTI of `s` stand in `t` (spec/60_exceptions.md R204). -/
def KeepsRecordedError (s t : State) : Prop :=
  ∀ e, s.err = some e → t.err = some e ∧ t.errInfo = s.errInfo ∧ (s.errMulti = true → t.errMulti = true)

theorem keepsRecordedError_of_eq {s t : State} (herr : t.err = s.err) (hinfo : t.errInfo = s.errInfo)
    (hmulti : t.errMulti = s.errMulti) : KeepsRecordedError s t :=
  fun _ he => ⟨herr.trans he, hinfo, hmulti.trans⟩

theorem keepsRecordedError_raiseUsageError (e : UsageError) (w : Word32) (s : State) :
    KeepsRecordedError s (raiseUsageError e w s) := by
  intro d hd
  obtain ⟨herr, hinfo, hmulti⟩ := raiseUsageError_shows_later e d w s hd
  exact ⟨herr, hinfo, fun _ => hmulti⟩

theorem keepsRecordedError_issueCommand {i : Instr} (hi : i ≠ .init) (s : State) : KeepsRecordedError s (issueCommand i s) := by
  rcases issueCommand_cases i s with ⟨e, -, ht⟩ | ⟨-, ht⟩ <;> rw [ht]
  · exact keepsRecordedError_raiseUsageError e (encode i) s
  · obtain ⟨herr, hmulti, hinfo⟩ := acceptCommand_errorRecord hi s
    exact keepsRecordedError_of_eq herr hinfo hmulti

/-- The engine's own step leaves the error record alone (spec/60_exceptions.md R206). -/
theorem keepsRecordedError_engineStep {s t : State} (he : engineStep s = .next t) : KeepsRecordedError s t := by
  rcases engineStep_cases he with ⟨-, rfl⟩ | ⟨hb, i, -, hx⟩
  · exact keepsRecordedError_of_eq rfl rfl rfl
  · rcases exec_busy_cases hb hx with ⟨-, rfl⟩ | ⟨-, rfl⟩ | ⟨-, rfl⟩ | ⟨-, -, rfl⟩ <;>
      exact keepsRecordedError_of_eq (by simp) (by simp) (by simp)

/-- Of the host's writes only the CMD write of INIT clears a recorded error (spec/60_exceptions.md R206). -/
theorem windowWrite_keepsRecordedError_or_init {off : Nat} {v : Word32} {s t : State} (hw : windowWrite off v s = .next t) :
    KeepsRecordedError s t ∨
      (off = 0x090 ∧ s.busy = false ∧ decodeWord v = .command .init ∧ t = acceptCommand .init s) := by
  rcases windowWrite_cases hw with
    ⟨_, rfl⟩ | ⟨hb, ⟨_, rfl⟩ | ⟨_, rfl⟩ | ⟨_, rfl⟩ | ⟨_, rfl⟩ | ⟨_, rfl⟩ | ⟨hoff, i, hd, rfl⟩ | ⟨_, _, rfl⟩ | ⟨_, rfl⟩⟩
  · exact .inl (keepsRecordedError_raiseUsageError .busyWrite _ s)
  · exact .inl (keepsRecordedError_of_eq rfl rfl rfl)
  · exact .inl (keepsRecordedError_of_eq rfl rfl rfl)
  · exact .inl (keepsRecordedError_of_eq rfl rfl rfl)
  · exact .inl (keepsRecordedError_of_eq rfl rfl rfl)
  · exact .inl (keepsRecordedError_of_eq rfl rfl rfl)
  · by_cases hi : i = .init
    · subst hi
      exact .inr ⟨hoff, hb, hd, by rw [issueCommand, checkCommand_init]⟩
    · exact .inl (keepsRecordedError_issueCommand hi s)
  · exact .inl (keepsRecordedError_raiseUsageError .illegalCmd v s)
  · exact .inl (keepsRecordedError_of_eq rfl rfl rfl)

/-- Settles O57, by the kinds of step. -/
theorem errorsAreClearedOnlyByInitAndReset : Obligations.ErrorsAreClearedOnlyByInitAndReset := by
  intro s t e he hs
  rcases step_cases hs with ⟨-, hx⟩ | ⟨rest, -, hx⟩ | ⟨a, rest, hturns, ha⟩ | ⟨rest, hturns, rfl⟩
  · exact .inl (keepsRecordedError_engineStep hx e he)
  · exact .inl (keepsRecordedError_engineStep hx e he)
  · rcases busAccess_cases ha with ⟨off, -, -, rfl⟩ | ⟨off, v, rfl, -, hw⟩
    · exact .inl ⟨he, rfl, id⟩
    · rcases windowWrite_keepsRecordedError_or_init hw with hkeep | ⟨rfl, hb, hd, rfl⟩
      · exact .inl (hkeep e he)
      · exact .inr ⟨rfl, rfl, rfl, .inr ⟨v, rest, hturns, hb, hd⟩⟩
  · exact .inr ⟨rfl, rfl, rfl, .inl ⟨rest, hturns⟩⟩

/-- Settles O6: both steps are the engine's, which is idle. -/
theorem idleEngineKeepsItsState : Obligations.IdleEngineKeepsItsState := fun s hb =>
  ⟨fun hturns => (step_of_no_turns s hturns).trans (engineStep_idle s hb),
    fun rest hturns => (step_of_turn s .engine rest hturns).trans (engineStep_idle { s with turns := rest } hb)⟩

end Sys2Proof.Machine
end

section
/-!
PROOFS. The platform: a step is what the engine it concerns makes of it, put back in that engine's place
(spec/60_exceptions.md R214; spec/20_memory.md R50, R60).
-/
namespace Sys2Proof.Machine

/-- The turn is about engine `k`, whose entry is `e`. -/
def PlatformTurn.concerns : PlatformTurn → Nat → EngineAt → Prop
  | .host a, _, e => inWindow e.base (platformAddress a) = true
  | .engine j, k, _ => j = k
  | .reset j, k, _ => j = k

/-- What an engine with its window at `base` makes of a turn that concerns it. -/
def engineEvent (u : PlatformTurn) (e : EngineAt) : Host.Outcome State Fault Refusal :=
  match u with
  | .host a => busAccess (windowAccess e.base a) e.engine
  | .engine _ => engineStep e.engine
  | .reset _ => .next (resetEngine e.engine)

/-- The platform in which engine `k`, whose entry was `e`, is in state `s`. -/
def setEngine (p : List EngineAt) (k : Nat) (e : EngineAt) (s : State) : List EngineAt := p.set k { e with engine := s }

theorem consOutcome_withEngineOutcome (e : EngineAt) (rest : List EngineAt) (o : Host.Outcome State Fault Refusal) :
    consOutcome rest (withEngineOutcome e o) = mapNext (setEngine (e :: rest) 0 e) o := by
  cases o <;> rfl

theorem outcomeCons_eq_mapNext (e : EngineAt) (o : Host.Outcome (List EngineAt) Fault Refusal) :
    outcomeCons e o = mapNext (e :: ·) o := by
  cases o <;> rfl

/-- What is done to an engine further on, seen from one place before. -/
theorem outcomeCons_mapNext_setEngine (d e : EngineAt) (rest : List EngineAt) (k : Nat) (o : Host.Outcome State Fault Refusal) :
    outcomeCons d (mapNext (setEngine rest k e) o) = mapNext (setEngine (d :: rest) (k + 1) e) o := by
  rw [outcomeCons_eq_mapNext, mapNext_mapNext]
  rfl

theorem onEngine_of_getElem? (f : State → Host.Outcome State Fault Refusal) : ∀ {k : Nat} {p : List EngineAt} {e : EngineAt},
    p[k]? = some e → onEngine f k p = mapNext (setEngine p k e) (f e.engine)
  | 0, _ :: _, _, rfl => consOutcome_withEngineOutcome ..
  | k + 1, d :: rest, e, h => by
    rw [onEngine, onEngine_of_getElem? f (k := k) (p := rest) h, outcomeCons_mapNext_setEngine]

theorem onEngine_of_no_engine (f : State → Host.Outcome State Fault Refusal) : ∀ {k : Nat} {p : List EngineAt},
    p[k]? = none → onEngine f k p = .next p
  | 0, [], _ => rfl
  | _ + 1, [], _ => rfl
  | k + 1, d :: rest, h => by
    rw [onEngine, onEngine_of_no_engine f (k := k) (p := rest) h]
    rfl

/-- An access in no window reaches no engine (spec/20_memory.md R60). -/
theorem deliverAccess_of_no_window {a : PlatformAccess} : ∀ {p : List EngineAt},
    (∀ e ∈ p, inWindow e.base (platformAddress a) = false) → deliverAccess a p = .next p
  | [], _ => rfl
  | d :: rest, h => by
    rw [deliverAccess, h d List.mem_cons_self, deliverAccess_of_no_window fun e he => h e (List.mem_cons_of_mem _ he)]
    rfl

/-- An access in some window reaches an engine in whose window it is. -/
theorem deliverAccess_of_window {a : PlatformAccess} : ∀ {p : List EngineAt},
    (∃ e ∈ p, inWindow e.base (platformAddress a) = true) →
      ∃ k e, p[k]? = some e ∧ inWindow e.base (platformAddress a) = true ∧
        deliverAccess a p = mapNext (setEngine p k e) (busAccess (windowAccess e.base a) e.engine)
  | d :: rest, h => by
    by_cases hd : inWindow d.base (platformAddress a) = true
    · exact ⟨0, d, rfl, hd, by rw [deliverAccess, if_pos hd, consOutcome_withEngineOutcome]⟩
    · obtain ⟨e, he, hin⟩ := h
      have hrest : e ∈ rest := (List.mem_cons.mp he).resolve_left fun heq => hd (heq ▸ hin)
      obtain ⟨k, c, hc, hcin, hdeliver⟩ := deliverAccess_of_window ⟨e, hrest, hin⟩
      exact ⟨k + 1, c, hc, hcin, by rw [deliverAccess, if_neg hd, hdeliver, outcomeCons_mapNext_setEngine]⟩

/-- What a step of a platform can be: nothing happens, or an engine that the turn concerns takes it. -/
theorem platformStep_cases (u : PlatformTurn) (p : List EngineAt) :
    platformStep u p = .next p ∨
      ∃ k e, p[k]? = some e ∧ u.concerns k e ∧ platformStep u p = mapNext (setEngine p k e) (engineEvent u e) := by
  cases u with
  | host a =>
    by_cases h : ∃ e ∈ p, inWindow e.base (platformAddress a) = true
    · exact .inr (deliverAccess_of_window h)
    · have hnone : ∀ e ∈ p, inWindow e.base (platformAddress a) = false := by simpa using h
      exact .inl (deliverAccess_of_no_window hnone)
  | engine j | reset j =>
    obtain hj | ⟨e, hj⟩ := Option.eq_none_or_eq_some p[j]?
    · exact .inl (onEngine_of_no_engine _ hj)
    · exact .inr ⟨j, e, hj, rfl, onEngine_of_getElem? _ hj⟩

theorem setEngine_bases {p : List EngineAt} {k : Nat} {e : EngineAt} (hk : p[k]? = some e) (s : State) :
    (setEngine p k e s).map EngineAt.base = p.map EngineAt.base := by
  obtain ⟨hlt, rfl⟩ := List.getElem?_eq_some_iff.mp hk
  have hself := List.set_getElem_self (as := p.map EngineAt.base) (i := k) (by rwa [List.length_map])
  rw [List.getElem_map] at hself
  rw [setEngine, List.map_set, hself]

theorem setEngine_getElem?_ne {j k : Nat} (h : j ≠ k) (p : List EngineAt) (e : EngineAt) (s : State) :
    (setEngine p j e s)[k]? = p[k]? := List.getElem?_set_ne h

/-- A step keeps the bases and every engine that its turn does not concern (spec/60_exceptions.md R214). -/
theorem platformStep_frame {u : PlatformTurn} {p q : List EngineAt} (h : platformStep u p = .next q) :
    q.map EngineAt.base = p.map EngineAt.base ∧ ∀ k e, p[k]? = some e → ¬ u.concerns k e → q[k]? = some e := by
  rcases platformStep_cases u p with hstep | ⟨j, d, hj, hd, hstep⟩ <;> rw [hstep] at h
  · obtain rfl := Host.Outcome.next.inj h
    exact ⟨rfl, fun _ _ hk _ => hk⟩
  · obtain ⟨t, -, rfl⟩ := mapNext_eq_next_iff.mp h
    refine ⟨setEngine_bases hj t, fun k e hk hne => ?_⟩
    have hjk : j ≠ k := by
      rintro rfl
      exact hne (Option.some.inj (hj.symm.trans hk) ▸ hd)
    rw [setEngine_getElem?_ne hjk, hk]

/-- In a well-formed platform an address lies in one window at most (spec/20_memory.md R50). -/
theorem inWindow_unique {p : List EngineAt} (hwf : platformWellFormed p = true) {addr j k : Nat} {d e : EngineAt}
    (hj : p[j]? = some d) (hk : p[k]? = some e) (hd : inWindow d.base addr = true) (he : inWindow e.base addr = true) : j = k := by
  simp only [platformWellFormed, Bool.and_eq_true, List.all_eq_true, beq_iff_eq, decide_eq_true_eq] at hwf
  obtain ⟨halign, hnodup⟩ := hwf
  simp only [inWindow, Config.windowBytes, Bool.and_eq_true, decide_eq_true_eq] at hd he
  have hdalign := halign d (List.mem_of_getElem? hj)
  have healign := halign e (List.mem_of_getElem? hk)
  simp only [Config.windowBytes] at hdalign healign
  have hbase : d.base = e.base := by omega
  have hlt : j < (p.map EngineAt.base).length := by
    rw [List.length_map]
    exact (List.getElem?_eq_some_iff.mp hj).1
  refine (List.getElem?_inj hlt hnodup).mp ?_
  rw [List.getElem?_map, List.getElem?_map, hj, hk, Option.map_some, Option.map_some, hbase]

/-- In a well-formed platform an access inside a window is taken by the engine of that window (spec/20_memory.md R50). -/
theorem deliverAccess_of_wellFormed {p : List EngineAt} (hwf : platformWellFormed p = true) {a : PlatformAccess} {k : Nat}
    {e : EngineAt} (hk : p[k]? = some e) (hin : inWindow e.base (platformAddress a) = true) :
    deliverAccess a p = mapNext (setEngine p k e) (busAccess (windowAccess e.base a) e.engine) := by
  obtain ⟨j, d, hj, hd, hdeliver⟩ := deliverAccess_of_window ⟨e, List.mem_of_getElem? hk, hin⟩
  obtain rfl := inWindow_unique hwf hj hk hd hin
  obtain rfl := Option.some.inj (hj.symm.trans hk)
  exact hdeliver

/-- Settles O58: a step is the turn taken by the one engine it concerns. -/
theorem platformEnginesAreIndependent : Obligations.PlatformEnginesAreIndependent := by
  refine ⟨fun p q u h => ?frame, fun p k e hk => ⟨fun a hwf hin => ?access, fun t ht => ?step, fun r hr => ?stepFault, ?reset⟩,
    fun p a => deliverAccess_of_no_window⟩
  case frame =>
    obtain ⟨hbases, hframe⟩ := platformStep_frame h
    refine ⟨hbases, fun k e hk hne => hframe k e hk ?_⟩
    cases u with
    | host a => exact Bool.eq_false_iff.mp hne
    | engine j | reset j => exact hne
  case access =>
    have hstep := deliverAccess_of_wellFormed hwf hk hin
    exact ⟨fun t ht => hstep.trans (congrArg (mapNext _) ht), fun r hr => hstep.trans (congrArg (mapNext _) hr)⟩
  case step => exact (onEngine_of_getElem? engineStep hk).trans (congrArg (mapNext _) ht)
  case stepFault => exact (onEngine_of_getElem? engineStep hk).trans (congrArg (mapNext _) hr)
  case reset => exact onEngine_of_getElem? _ hk

end Sys2Proof.Machine
end

section
/-!
PROOFS. A step at a CMD write, at the engine's turn, at a host write in the busy window, and at reset, each from any state
(spec/70_reset_and_hazards.md R231, R233, R234, R236).
-/
namespace Sys2Proof.Machine

/-- A table row of 32 bits gives the whole word back (spec/30_encoding.md R80). -/
@[simp] theorem tableWord_toNat (w : Word32) : tableWord 32 w.toNat = w := by
  rw [tableWord, Nat.mod_eq_of_lt w.isLt, BitVec.ofNat_toNat, BitVec.setWidth_eq]

/-- A legal word written to CMD with BUSY = 0 runs its command (spec/70_reset_and_hazards.md R233). -/
theorem step_of_command {s : State} {w : Word32} {i : Instr} {rest : List Turn} (hd : decodeWord w = .command i)
    (hturns : s.turns = .host (.write .w32 0x090 w) :: rest) (hb : s.busy = false) : step s = exec i { s with turns := rest } := by
  rw [step_of_write hturns (by decide) (by decide), windowWrite_cmd w (s := { s with turns := rest }) hb, writeCommand, hd]

/-- Settles O4: the host's turn is the write of a legal word to CMD, and the placed word makes such a turn. -/
theorem stepRunsIssuedCommand : Obligations.StepRunsIssuedCommand := by
  refine fun s w i hd => ⟨fun rest hturns hb => step_of_command hd hturns hb, ?_⟩
  rw [State.withFetchWord, tableWord_toNat]
  exact step_of_command hd (placeCommandWord_turns w s) (placeCommandWord_busy w s)

/-- Settles O5: both steps are the engine's, which performs the pending command. -/
theorem stepRunsPendingCommand : Obligations.StepRunsPendingCommand := fun s i hb hp =>
  ⟨fun hturns => (step_of_no_turns s hturns).trans (engineStep_busy s i hb hp),
    fun rest hturns => (step_of_turn s .engine rest hturns).trans (engineStep_busy { s with turns := rest } i hb hp)⟩

/-- Settles O26: the step raises BUSY_WRITE, and the laws of raising an error say what it shows. -/
theorem busyWindowIgnoresWrites : Obligations.BusyWindowIgnoresWrites := fun s off v rest hturns h4 hle hb =>
  ⟨_, (step_of_write hturns h4 hle).trans (windowWrite_busy off v hb), rfl,
    sameButErrorRecord_iff.mpr (eraseErrorRecord_raiseUsageError ..), raiseUsageError_reads .., raiseUsageError_errLog ..,
    raiseUsageError_shows_first .busyWrite _ { s with turns := rest },
    fun e => raiseUsageError_shows_later .busyWrite e _ { s with turns := rest }⟩

theorem be32_load_nil (a : Nat) : be32 (Memory.load [] a 4) 0 = 0 := by
  simp only [be32_load, Memory.read_nil]
  decide

/-- After reset every offset of the window reads 0 (spec/70_reset_and_hazards.md R230; spec/10_state.md R38). -/
theorem windowWord_reset {off : Nat} (h4 : off % 4 = 0) (hle : off ≤ 0x0FC) : windowWord off State.reset = 0 := by
  rcases windowOffset_cases h4 hle with
    hblock | rfl | rfl | rfl | rfl | rfl | rfl | rfl | rfl | ⟨hlo, hhi⟩ | hdout
  · exact (windowWord_block _ hblock).trans (be32_load_nil off)
  iterate 8 (· decide)
  · exact windowWord_reserved _ hlo hhi
  · exact (windowWord_dout _ hdout).trans (be32_load_nil (off - 0x0C0))

/-- The window does not show what reset leaves alone, the turns, the reads and the log (log entry 16). -/
theorem windowWord_resetEngine (off : Nat) (s : State) : windowWord off (resetEngine s) = windowWord off State.reset := rfl

/-- Settles O30: the step is reset, which leaves BUSY = 0, so the engine that follows it is idle. -/
theorem resetAbandonsTheCommand : Obligations.ResetAbandonsTheCommand := fun s rest hturns =>
  ⟨resetEngine { s with turns := rest }, step_of_turn s .reset rest hturns, rfl, rfl, rfl, rfl,
    fun off h4 hle => (windowWord_resetEngine off _).trans (windowWord_reset h4 hle), engineStep_idle _ rfl, rfl, rfl⟩

end Sys2Proof.Machine
end

section
/-!
PROOFS. Runs: every step takes one turn off the list, host accesses leave the command in flight alone, and the engine performs it when its
turn comes or no turn is left (spec/70_reset_and_hazards.md R231, R235).
-/
namespace Sys2Proof.Machine

theorem run_succ_of_next {M : Host.Core} {s t : M.State} (h : M.step s = .next t) (k : Nat) : M.run (k + 1) s = M.run k t := by
  rw [Host.Core.run, h]

theorem run_succ_of_fault {M : Host.Core} {s : M.State} {r : M.Fault} (h : M.step s = .fault r) (k : Nat) :
    M.run (k + 1) s = .fault r := by
  rw [Host.Core.run, h]

theorem run_succ_eq_next {M : Host.Core} {k : Nat} {s t : M.State} (h : M.run (k + 1) s = .next t) :
    ∃ u, M.step s = .next u ∧ M.run k u = .next t := by
  rw [Host.Core.run] at h
  split at h
  · next u hu => exact ⟨u, hu, h⟩
  all_goals cases h

/-- One step after a run. -/
theorem run_succ_of_run {M : Host.Core} : ∀ {k : Nat} {s m t : M.State}, M.run k s = .next m → M.step m = .next t →
    M.run (k + 1) s = .next t
  | 0, _, _, _, hrun, hstep => by
    obtain rfl := Host.Outcome.next.inj hrun
    exact run_succ_of_next hstep 0
  | k + 1, _, _, _, hrun, hstep => by
    obtain ⟨u, hu, hk⟩ := run_succ_eq_next hrun
    exact (run_succ_of_next hu (k + 1)).trans (run_succ_of_run hk hstep)

@[simp] theorem issueCommand_turns (i : Instr) (s : State) : (issueCommand i s).turns = s.turns := by
  rcases issueCommand_cases i s with ⟨e, -, ht⟩ | ⟨-, ht⟩ <;> simp [ht]

theorem engineStep_turns {s t : State} (he : engineStep s = .next t) : t.turns = s.turns := by
  rcases engineStep_cases he with ⟨-, rfl⟩ | ⟨hb, i, -, hx⟩
  · rfl
  · rcases exec_busy_cases hb hx with ⟨-, rfl⟩ | ⟨-, rfl⟩ | ⟨-, rfl⟩ | ⟨-, -, rfl⟩ <;> simp

theorem windowWrite_turns {off : Nat} {v : Word32} {s t : State} (hw : windowWrite off v s = .next t) : t.turns = s.turns := by
  rcases windowWrite_cases hw with
    ⟨_, rfl⟩ | ⟨_, ⟨_, rfl⟩ | ⟨_, rfl⟩ | ⟨_, rfl⟩ | ⟨_, rfl⟩ | ⟨_, rfl⟩ | ⟨_, _, _, rfl⟩ | ⟨_, _, rfl⟩ | ⟨_, rfl⟩⟩ <;> simp

/-- A step takes its turn off the list, and nothing else changes the list (log entry 1). -/
theorem step_turns {s t : State} (hs : step s = .next t) : t.turns = s.turns.tail := by
  rcases step_cases hs with ⟨hturns, he⟩ | ⟨rest, hturns, he⟩ | ⟨a, rest, hturns, ha⟩ | ⟨rest, hturns, rfl⟩ <;> rw [hturns]
  · exact (engineStep_turns he).trans hturns
  · exact engineStep_turns he
  · rcases busAccess_cases ha with ⟨off, -, -, rfl⟩ | ⟨off, v, -, -, hw⟩
    · rfl
    · exact windowWrite_turns hw
  · rfl

/-- With BUSY = 1 a host's turn is a bus error, or leaves all but the error record and the words read
(spec/70_reset_and_hazards.md R236). -/
theorem step_of_host_busy {s : State} {a : Access} {rest : List Turn} (hturns : s.turns = .host a :: rest) (hb : s.busy = true) :
    step s = .fault .busError ∨ ∃ t, step s = .next t ∧ SameButErrorRecord { s with turns := rest } t := by
  rw [step_of_host hturns]
  rcases busAccess_completes_or_missing a { s with turns := rest } with ⟨t, ht⟩ | ⟨hfault, -⟩
  · refine .inr ⟨t, ht, sameButErrorRecord_iff.mpr ?_⟩
    rcases busAccess_busy_cases (s := { s with turns := rest }) hb ht with ⟨off, rfl⟩ | ⟨off, rfl⟩
    · rfl
    · exact eraseErrorRecord_raiseUsageError ..
  · exact .inl hfault

/-- Two runs of host accesses, one after the other, leave together what each leaves. -/
theorem sameButErrorRecord_trans {s t m : State} {rest : List Turn} (hst : SameButErrorRecord { s with turns := rest } t)
    (htm : SameButErrorRecord { t with turns := m.turns } m) : SameButErrorRecord { s with turns := m.turns } m := by
  rw [sameButErrorRecord_iff] at hst htm ⊢
  exact htm.trans (congrArg (fun u : State => { u with turns := m.turns }) hst)

/-- While BUSY = 1 a run of host accesses ends at a bus error, or past them with the command in flight as it was
(spec/70_reset_and_hazards.md R236). -/
theorem run_hosts_busy {tail : List Turn} : ∀ {hosts : List Turn} {s : State}, s.busy = true → (∀ u ∈ hosts, ∃ a, u = .host a) →
    s.turns = hosts ++ tail →
    Host.Core.run Sys2Proof.core hosts.length s = .fault Fault.busError ∨
      ∃ m : State, Host.Core.run Sys2Proof.core hosts.length s = .next m ∧ m.turns = tail ∧
        SameButErrorRecord { s with turns := m.turns } m
  | [], s, _, _, hturns => .inr ⟨s, rfl, hturns, rfl⟩
  | u :: hosts, s, hb, hall, hturns => by
    obtain ⟨a, rfl⟩ := hall u List.mem_cons_self
    rw [List.length_cons]
    rcases step_of_host_busy hturns hb with hfault | ⟨t, hnext, hsame⟩
    · exact .inl (run_succ_of_fault hfault _)
    · have htb : t.busy = true := by rw [hsame]; exact hb
      have htturns : t.turns = hosts ++ tail := by rw [hsame]; rfl
      rw [run_succ_of_next (M := Sys2Proof.core) hnext]
      rcases run_hosts_busy htb (fun v hv => hall v (List.mem_cons_of_mem _ hv)) htturns with hfault | ⟨m, hrun, hm, htm⟩
      · exact .inl hfault
      · exact .inr ⟨m, hrun, hm, sameButErrorRecord_trans hsame htm⟩

/-- A state past host accesses still holds the command its check accepts, so it can be performed
(spec/70_reset_and_hazards.md R233, R236). -/
theorem EngineInv.exec_completes_past_hosts {i : Instr} {s m : State} (h : EngineInv s) (hb : s.busy = true)
    (hp : s.pending = some i) (hsame : SameButErrorRecord { s with turns := m.turns } m) (rest : List Turn) :
    ∃ t, exec i { m with turns := rest } = .next t := by
  refine exec_completes_of_accepted (by rw [hsame]; exact hb) ?_
  rw [checkCommand_congr i (s := s) (by rw [hsame]) (by rw [hsame]) (by rw [hsame])]
  exact h.checkCommand_pending hb hp

/-- With the command in flight as it was, the next step performs it, at the engine's turn or when no turn is left
(spec/70_reset_and_hazards.md R234). -/
theorem step_performs_past_hosts {i : Instr} {s m : State} {rest : List Turn} (hb : s.busy = true) (hp : s.pending = some i)
    (hsame : SameButErrorRecord { s with turns := m.turns } m) (hturns : m.turns = [] ∧ rest = [] ∨ m.turns = .engine :: rest) :
    step m = exec i { m with turns := rest } := by
  have hmb : m.busy = true := by rw [hsame]; exact hb
  have hmp : m.pending = some i := by rw [hsame]; exact hp
  obtain ⟨hnone, hengine⟩ := stepRunsPendingCommand m i hmb hmp
  rcases hturns with ⟨hm, rfl⟩ | hm
  · rw [hnone hm, ← hm]
  · exact hengine rest hm

/-- One step more than there are turns uses up the turns and ends idle, or at a bus error (spec/70_reset_and_hazards.md R235; log entries
2 and 4). -/
theorem run_ends_idle : ∀ {us : List Turn} {s : State}, EngineInv s → s.turns = us →
    Host.Core.run Sys2Proof.core (us.length + 1) s = .fault Fault.busError ∨
      ∃ t : State, Host.Core.run Sys2Proof.core (us.length + 1) s = .next t ∧ t.turns = [] ∧ t.busy = false
  | [], s, h, hturns => by
    obtain ⟨t, ht⟩ := h.engineStep_completes
    exact .inr ⟨t, run_succ_of_next ((step_of_no_turns s hturns).trans ht) 0, (engineStep_turns ht).trans hturns,
      engineStep_ends_idle ht⟩
  | u :: us, s, h, hturns => by
    rw [List.length_cons]
    rcases onlyBusErrorsStop s h with ⟨t, ht⟩ | ⟨hfault, -⟩
    · rw [run_succ_of_next (M := Sys2Proof.core) ht]
      exact run_ends_idle (stepKeepsEngineInv s t h ht) (by rw [step_turns ht, hturns, List.tail_cons])
    · exact .inl (run_succ_of_fault hfault _)

/-- Settles O56: host accesses leave the command in flight alone up to the engine's move, and every step uses up a turn. -/
theorem everyAcceptedCommandIsPerformed : Obligations.EveryAcceptedCommandIsPerformed := by
  refine fun s h => ⟨fun i hosts rest hb hp hall hturns => ?performed, ?idle⟩
  case performed =>
    obtain ⟨tail, hs, hmoves⟩ : ∃ tail, s.turns = hosts ++ tail ∧ (tail = [] ∧ rest = [] ∨ tail = .engine :: rest) := by
      rcases hturns with ⟨hs, hrest⟩ | hs
      · exact ⟨[], by rw [hs, List.append_nil], .inl ⟨rfl, hrest⟩⟩
      · exact ⟨_, hs, .inr rfl⟩
    rcases run_hosts_busy hb hall hs with hfault | ⟨m, hrun, rfl, hsame⟩
    · exact .inl hfault
    · obtain ⟨t, ht⟩ := h.exec_completes_past_hosts hb hp hsame rest
      have hstep := (step_performs_past_hosts hb hp hsame hmoves).trans ht
      exact .inr ⟨m, t, hrun, hsame, ht, run_succ_of_run hrun hstep, exec_busy_ends (by rw [hsame]; exact hb) ht⟩
  case idle =>
    rcases run_ends_idle h rfl with hfault | ⟨t, hrun, hturns, hb⟩
    · rw [hfault]
    · rw [hrun]
      exact ⟨hturns, hb⟩

end Sys2Proof.Machine
end
